-- ==== Sys2Proof/Word.lean ====
section
/-! DEFINITION. The unit every stream of the block is made of: one byte (20_memory.md R60: every
stream is byte-granular). -/

namespace Sys2Proof

/-- One byte of the source, of a buffer or of the channel (R50, R60). -/
abbrev Byte := BitVec 8

end Sys2Proof
end

