-- ==== Sys2Proof/Config.lean ====
section
/-! DEFINITION. The parameters of 00_scope.md R8, the environment's draws (R8 `P_IO_FAULT`, R18) and
the free values: constants without a body, of which nothing can be proved but their type. -/

namespace Sys2Proof

/-- The parameters of 00_scope.md R8 that the host fixes before `OPEN` and that do not change during a
session (70_reset_and_hazards.md R232). A statement over every state holds for every value of them
(R18). -/
structure Params where
  /-- `P_CHAN_CAP`, the channel's capacity C in bytes. R8 asks for C at least 1, which is `Params.Wf`. -/
  chanCap : Nat
  /-- `P_CHUNK_MAGIC`, the expected chunk magic. -/
  chunkMagic : BitVec 32
  /-- `P_MAGIC_CHECK`: does a magic mismatch fail the stream? -/
  magicCheck : Bool
  /-- `P_IMA_STEP[0..88]`; R120 assumes of each entry only that it lies in 0..32767. -/
  imaStep : Vector (Fin 32768) 89
  /-- `P_IMA_INDEX[0..15]`; R121 assumes of each entry only that it is an integer. -/
  imaIndex : Vector Int 16
  /-- `P_WS8_DELTA[0..15]`; R140 assumes of each entry only that it is an integer. -/
  ws8Delta : Vector Int 16
  deriving DecidableEq, Repr

/-- R8: `P_CHAN_CAP` is at least 1 (the tables' bounds are in their types). -/
abbrev Params.Wf (p : Params) : Prop := 1 ≤ p.chanCap

/-- What the environment and the free choices of the rules draw for ONE step (R18). No step draws more
than one I/O fault, since it makes at most one `SrcRead` or `ChanPush` (R51, R55). -/
structure Draw where
  /-- `P_IO_FAULT`: is an I/O fault drawn at this step's source read or channel write (R51, R55)? -/
  ioFault : Bool
  /-- The free count of a `READ` (R175): a `READ` that may return 1..m bytes returns
  `1 + readCount % m` of them, so every count of the range is drawn by some value (log 9). -/
  readCount : Nat
  /-- The free choice of a `READ` after an abnormal close (R175): true is the error, choice (b). -/
  readError : Bool
  /-- The interleaving of the caller's own moves (R18): while a `READ` that could return is suspended, does the
  caller issue its next command before it (R175; log 30)? -/
  commandFirst : Bool
  deriving DecidableEq, Repr, Inhabited

namespace Config

/-- `P_CHAN_CAP` less one: OPEN in the spec (92_eei_decisions.md D3), so a constant without a body. -/
opaque openChanCapLessOne : Nat

/-- `P_WS8_DELTA`: OPEN in the spec (D9), so a constant without a body. -/
opaque openWs8Delta : Vector Int 16

/-- How many more moves an agent makes in a row, once its stretch of a schedule that is not listed has begun
(log 2; R236: "no bound on time"). -/
opaque freeStretch : Nat → Nat

/-- The draw of a move that no listed turn schedules (log 2): unconstrained. -/
opaque freeDraw : Nat → Draw

/-- `IMA_INDEX` once the decoder state is discarded (R31): no value in its range 0..88 is known. -/
opaque freeImaIndex : Nat → Fin 89

/-- `IMA_PRED` once the decoder state is discarded (R31). -/
opaque freeImaPred : Nat → BitVec 16

/-- `WS8_PRED` once the decoder state is discarded (R31). -/
opaque freeWs8Pred : Nat → BitVec 8

/-- `FH_FREQ` after `OpenFail` (60_exceptions.md R207): the register holds no value. -/
opaque freeFhFreq : Nat → BitVec 16

/-- `FH_DATASIZE` after `OpenFail` (R207). -/
opaque freeFhDataSize : Nat → BitVec 32

/-- `FH_OUTSIZE` after `OpenFail` (R207). -/
opaque freeFhOutSize : Nat → BitVec 32

/-- `FH_FLAGS` after `OpenFail` (R207). -/
opaque freeFhFlags : Nat → BitVec 8

/-- `FH_CTYPE` after `OpenFail` (R207). -/
opaque freeFhCtype : Nat → BitVec 8

/-- `SRC_OFF` after an `IOFailure` at a source read (60_exceptions.md R201). -/
opaque freeSrcOff : Nat → Nat

end Config

end Sys2Proof
end

