-- ==== Sys2Proof/Machine/Tables.lean ====
section
/-! DEFINITION. The default tables of 42_ima4.md R120 and R121 and the default parameters of
00_scope.md R8. PRESUMED (log 4): the spec itself takes the tables' values and the magic from general
knowledge, not from its source. No meaning reads these names: the operations read the tables of the
state's parameters (R9). -/

namespace Sys2Proof.Machine

/-- The step table of R120, row by row of the rule. -/
def imaStepList : List (Fin 32768) :=
  [7, 8, 9, 10, 11, 12, 13, 14, 16, 17] ++
  [19, 21, 23, 25, 28, 31, 34, 37, 41, 45] ++
  [50, 55, 60, 66, 73, 80, 88, 97, 107, 118] ++
  [130, 143, 157, 173, 190, 209, 230, 253, 279, 307] ++
  [337, 371, 408, 449, 494, 544, 598, 658, 724, 796] ++
  [876, 963, 1060, 1166, 1282, 1411, 1552, 1707, 1878, 2066] ++
  [2272, 2499, 2749, 3024, 3327, 3660, 4026, 4428, 4871, 5358] ++
  [5894, 6484, 7132, 7845, 8630, 9493, 10442, 11487, 12635, 13899] ++
  [15289, 16818, 18500, 20350, 22385, 24623, 27086, 29794, 32767]

/-- `P_IMA_STEP`'s default (R120). -/
def imaStepTable : Vector (Fin 32768) 89 := ⟨imaStepList.toArray, by decide⟩

/-- The index table of R121: the adjustment of each code. -/
def imaIndexList : List Int := [-1, -1, -1, -1, 2, 4, 6, 8] ++ [-1, -1, -1, -1, 2, 4, 6, 8]

/-- `P_IMA_INDEX`'s default (R121). -/
def imaIndexTable : Vector Int 16 := ⟨imaIndexList.toArray, by decide⟩

/-- The parameters of R8 at their defaults; the two that are OPEN are constants without a body. -/
def defaultParams : Params where
  chanCap := Config.openChanCapLessOne + 1
  chunkMagic := 0x0000DEAF#32
  magicCheck := true
  imaStep := imaStepTable
  imaIndex := imaIndexTable
  ws8Delta := Config.openWs8Delta

end Sys2Proof.Machine
end

