-- ==== Sys2Proof/Syntax.lean ====
section
/-! DEFINITION. The operations of 00_scope.md R3, one constructor per row of spec/opcode_table.json,
with their decoded fields. -/

namespace Sys2Proof

/-- The operations of the block (30_encoding.md R78). A record operation carries the fields decoded
from its bytes, or, where its read was short, the bytes that came. -/
inductive Instr where
  /-- `FHDR`, a 12-byte file header (R70, R100). -/
  | fhdr (frequency : BitVec 16) (dataSize outputSize : BitVec 32) (flags compressionType : BitVec 8)
  /-- `FHDR_SHORT`, a file-header read that returned 0..11 bytes (R100). -/
  | fhdrShort (h : List Byte)
  /-- `CHDR`, an 8-byte chunk header (R71, R102). -/
  | chdr (encodedSize decodedSize : BitVec 16) (magic : BitVec 32)
  /-- `CHDR_SHORT`, a chunk-header read that returned 1..7 bytes (R103). -/
  | chdrShort (c : List Byte)
  /-- `EOS`, a chunk-header read that returned no byte (R162). -/
  | eos
  /-- `PAYLOAD`, the bytes that the payload read returned, 0..65535 of them (R164). -/
  | payload (p : List Byte)
  /-- `DISPATCH`, the codec select on `FH_CTYPE` and the chunk's decode (R165). -/
  | dispatch
  /-- `SEL_WS8`, `compressionType` 1 (R74, R165). -/
  | selWs8
  /-- `SEL_IMA4`, `compressionType` 99 (R74, R165). -/
  | selIma4
  /-- `SEL_UNSUPPORTED`, any other `compressionType` (R74, R165). -/
  | selUnsupported (compressionType : BitVec 8)
  /-- `IMA4.CHUNK` (R125). -/
  | ima4Chunk
  /-- `IMA4.BYTE`, its low and its high code (R59, R124). -/
  | ima4Byte (lo hi : BitVec 4)
  /-- `IMA4.NIB`, one 4-bit code (R75, R123). -/
  | ima4Nib (code : BitVec 4)
  /-- `WS8.CHUNK` (R145). -/
  | ws8Chunk
  /-- `WS8.BYTE`, a command byte not yet classified (R141). -/
  | ws8Byte (b : Byte)
  /-- `WS8.RUN`, its count 0..127 (R76, R142). -/
  | ws8Run (count : BitVec 7)
  /-- `WS8.DELTA`, its first code 0..7 and its second code 0..15 (R76, R143). -/
  | ws8Delta (code1 : BitVec 3) (code2 : BitVec 4)
  /-- `WS8.EMIT`, the checked append of one byte (R144). -/
  | ws8Emit (v : Byte)
  /-- `DELIVER`, one byte of `OUTBUF` to `CHAN` (R168). -/
  | deliver
  /-- `CANCEL`, the worker's cancel step (R178). -/
  | cancel
  /-- `OPEN`, host command (R160). -/
  | openCmd
  /-- `START`, host command (R170). -/
  | startCmd
  /-- `READ(n)`, host command (R175). -/
  | readCmd (n : Nat)
  /-- `CLOSE`, host command (R177). -/
  | closeCmd
  /-- `BITRATE`, host status function of `FH_FLAGS` (R104). -/
  | bitrate
  /-- `CHANNELS`, host status function of `FH_FLAGS` (R105). -/
  | channels
  deriving DecidableEq, Repr

end Sys2Proof
end

