-- ==== Sys2Proof/Machine/State.lean ====
section
/-! DEFINITION. The state of 10_state.md R20, its value after reset (70_reset_and_hazards.md R230), and
the reasons a step can stop. -/

namespace Sys2Proof.Machine

/-- `STATE` (R21). The reserved codes 6 and 7 have no name: no rule writes them. -/
inductive StreamState where
  | noStream | idle | running | closed | failed | openFail
  deriving DecidableEq, Repr

/-- `PHASE` (R22): the worker's next step while `STATE = Running`. -/
inductive Phase where
  | chdr | payload | decode | deliver
  deriving DecidableEq, Repr

/-- `ERR` (R32, 60_exceptions.md R200). The reserved code 7 has no name. -/
inductive ErrorCode where
  | none | malformedHeader | unsupportedCodec | truncatedChunk | ioFailure | sizeMismatch | badMagic
  deriving DecidableEq, Repr

/-- `CLOSE_CAUSE` (R20, R32). -/
inductive CloseCause where
  | normal | cancelled
  deriving DecidableEq, Repr

/-- `SINK_END` (R35): has the worker closed the sink, and how? -/
inductive SinkEnd where
  | isOpen | eof | abnormal
  deriving DecidableEq, Repr

/-- What the host can read by a status read (R37, 44_sequencer.md R183); `srcOff` and `chunkCount` are
observable for tests only (60_exceptions.md R214, R180). -/
inductive StatusReg where
  | state | err | closeCause | fhFreq | fhDataSize | fhOutSize | fhFlags | fhCtype | srcOff | chunkCount
  deriving DecidableEq, Repr

/-- What the caller may ask for (R183). -/
inductive HostCmd where
  | openStream | start | read (n : Nat) | close | bitrate | channels | status (r : StatusReg)
  deriving DecidableEq, Repr

/-- What the caller gets back (R175, R180, R183). -/
inductive HostResult where
  /-- A `READ` returned these bytes. -/
  | bytes (bs : List Byte)
  /-- A `READ` returned `END`. -/
  | endOfStream
  /-- A `READ` returned `ERROR(ERR)`. -/
  | error (e : ErrorCode)
  /-- `BITRATE` returned this sample width in bits. -/
  | bitrate (bits : Nat)
  /-- `CHANNELS` returned this count. -/
  | channels (n : Nat)
  /-- A status read returned this value of this register. -/
  | status (r : StatusReg) (v : Nat)
  deriving DecidableEq, Repr

/-- The two agents of a stream (00_scope.md R15). -/
inductive Agent where
  | worker
  | caller
  deriving DecidableEq, Repr

/-- One move of the schedule (R18: every interleaving and every draw). -/
inductive Turn where
  /-- The worker moves, with these draws. -/
  | worker (d : Draw)
  /-- The caller moves, with these draws. -/
  | caller (d : Draw)
  /-- The host resets the block, fixes the parameters and positions a source at its first byte (R230,
  R232 steps 1 to 3). -/
  | reset (cfg : Params) (src : List Byte)
  deriving DecidableEq, Repr

/-- The machine: the registers of R20, then the arguments the step relation takes (R8, R20), then the
model's own fields. -/
structure State where
  /-- `STATE` (R21). -/
  state : StreamState
  /-- `PHASE` (R22). -/
  phase : Phase
  /-- `ERR` (R32). -/
  err : ErrorCode
  /-- `CLOSE_CAUSE` (R32). -/
  closeCause : CloseCause
  /-- `FH_FREQ`, the file header's `frequency` (R24). -/
  fhFreq : BitVec 16
  /-- `FH_DATASIZE` (R24). -/
  fhDataSize : BitVec 32
  /-- `FH_OUTSIZE` (R24). -/
  fhOutSize : BitVec 32
  /-- `FH_FLAGS` (R24, R38). -/
  fhFlags : BitVec 8
  /-- `FH_CTYPE` (R24). -/
  fhCtype : BitVec 8
  /-- `CH_ENC` (R25). -/
  chEnc : BitVec 16
  /-- `CH_DEC` (R25). -/
  chDec : BitVec 16
  /-- `CH_MAGIC` (R25). -/
  chMagic : BitVec 32
  /-- `IMA_INDEX`, 0..88 (R26; the type is its range, log 15). -/
  imaIndex : Fin 89
  /-- `IMA_PRED`, two's complement (R27). -/
  imaPred : BitVec 16
  /-- `WS8_PRED`, unsigned (R28). -/
  ws8Pred : BitVec 8
  /-- `PAYLOAD`, the chunk's encoded bytes (R33). -/
  payload : List Byte
  /-- `OUTBUF`, the chunk's decoded bytes (R33). -/
  outbuf : List Byte
  /-- `DLV_PTR`, "u16 plus one bit" (R20, R34). -/
  dlvPtr : BitVec 17
  /-- `CHAN`, its head first (R35). -/
  chan : List Byte
  /-- `SINK_END` (R35). -/
  sinkEnd : SinkEnd
  /-- `FAIL_SEEN` (R35). -/
  failSeen : Bool
  /-- `CANCEL_REQ` (R36). -/
  cancelReq : Bool
  /-- `CALLER_CLOSED` (R36). -/
  callerClosed : Bool
  /-- `SRC_OFF` (R23). -/
  srcOff : Nat
  /-- `CHUNK_COUNT` (R36). -/
  chunkCount : Nat
  /-- The `n` of the `READ` the caller is suspended in (R14, R175), if it is. -/
  callerWait : Option Nat
  /-- The parameters of R8. -/
  cfg : Params
  /-- `P_SRC` (R8, R51). -/
  src : List Byte
  /-- MODEL: the draws of the step under way (log 11). -/
  draw : Draw
  /-- MODEL: the schedule that is left (log 1). -/
  turns : List Turn
  /-- MODEL: the host commands not yet issued, oldest first (log 1). -/
  cmds : List HostCmd
  /-- MODEL: what the caller got back, oldest first: the observation of R180 (log 18). -/
  results : List HostResult
  /-- MODEL: how many free values have been used (log 2, 7, 8). -/
  freeCount : Nat
  /-- MODEL: where no move is listed, the agent whose stretch of moves it is (log 2). -/
  freeMover : Agent
  /-- MODEL: how many moves that stretch still has (log 2). -/
  freeLeft : Nat
  deriving DecidableEq, Repr

/-- Why the model stops with a fault. -/
inductive Fault where
  /-- A status read of `SRC_OFF` after an `IOFailure` at a source read has left it without a value
  (60_exceptions.md R201): the treatment `fault` of 93_implementation_defined.md I11. No row of the opcode
  table reaches it. Safe: it proves nothing (log 6). -/
  | holdsNoValue (r : StatusReg)
  deriving DecidableEq, Repr

/-- Why the model refuses an operation. -/
inductive Refusal where
  /-- Raised by an arm of `exec` whose instruction has no meaning yet. Safe. -/
  | notModelled (mnemonic : String)
  /-- `OPEN` outside `NoStream`: the run is refused (44_sequencer.md R160, R184). Safe. -/
  | openRefused
  /-- `START` outside `Idle`, or after `CLOSE`: the run is refused (R170, R184). Safe. -/
  | startRefused
  /-- `READ` before `OPEN`, after `OpenFail`, after `CLOSE`, or of no byte: the run is refused (R175,
  R184). Safe. -/
  | readRefused
  /-- An operation of the worker, or a part of `OPEN`, where the spec gives no such step (R161, R30, R100;
  00_scope.md R14). The step function never asks for one. Safe. -/
  | notSelected
  deriving DecidableEq, Repr

/-- The machine right after reset (R230). The registers that R20 gives no reset value are at values the
model chose: DESIGN CHOICE, unsafe (log 5). The parameters are the defaults (log 4), nothing is in the
source, and nothing is scheduled. -/
def State.reset : State where
  state := .noStream
  phase := .chdr
  err := .none
  closeCause := .normal
  fhFreq := 0
  fhDataSize := 0
  fhOutSize := 0
  fhFlags := 0
  fhCtype := 0
  chEnc := 0
  chDec := 0
  chMagic := 0
  imaIndex := 0
  imaPred := 0
  ws8Pred := 0
  payload := []
  outbuf := []
  dlvPtr := 0
  chan := []
  sinkEnd := .isOpen
  failSeen := false
  cancelReq := false
  callerClosed := false
  srcOff := 0
  chunkCount := 0
  callerWait := none
  cfg := defaultParams
  src := []
  draw := ⟨false, 0, false, false⟩
  turns := []
  cmds := []
  results := []
  freeCount := 0
  freeMover := .caller
  freeLeft := 0

end Sys2Proof.Machine
end

