-- ==== Sys2Proof/Machine/Flags.lean ====
section
/-! DEFINITION. The functions of `FH_FLAGS`. The block has no condition codes, so no operation computes a
flag (10_state.md R38). -/

namespace Sys2Proof.Machine

/-- The sample width that bit 1 of the flags gives (R73, R104). -/
def bitrateOf (flags : BitVec 8) : Nat := if flags.getLsbD 1 then 16 else 8

/-- The channel count that bit 0 of the flags gives (R73, R105). -/
def channelsOf (flags : BitVec 8) : Nat := if flags.getLsbD 0 then 2 else 1

end Sys2Proof.Machine
end

