-- ==== Sys2Proof/WellFormed.lean ====
section
/-! DEFINITION. Which operations the encodings of 30_encoding.md admit: the bounds that the types of
the fields do not already carry. -/

namespace Sys2Proof

/-- An operation that a source or a host can present: the read lengths of R79 (b) and (c), the payload
bound of R72, the `compressionType` values of R74 that select no codec, and `READ`'s n at least 1
(R175). -/
def Instr.wellFormed : Instr → Bool
  | .fhdr _ _ _ _ _ => true
  | .fhdrShort h => h.length < 12
  | .chdr _ _ _ => true
  | .chdrShort c => 1 ≤ c.length && c.length < 8
  | .eos => true
  | .payload p => p.length ≤ 65535
  | .dispatch => true
  | .selWs8 => true
  | .selIma4 => true
  | .selUnsupported t => t != 1#8 && t != 99#8
  | .ima4Chunk => true
  | .ima4Byte _ _ => true
  | .ima4Nib _ => true
  | .ws8Chunk => true
  | .ws8Byte _ => true
  | .ws8Run _ => true
  | .ws8Delta _ _ => true
  | .ws8Emit _ => true
  | .deliver => true
  | .cancel => true
  | .openCmd => true
  | .startCmd => true
  | .readCmd n => 1 ≤ n
  | .closeCmd => true
  | .bitrate => true
  | .channels => true

end Sys2Proof
end

