-- ==== Sys2Proof/Decode.lean ====
section
/-! DEFINITION. The decoder of 30_encoding.md, total on any bytes, and after it the encoder. The bits
of an operation say which it is only together with the place where the block reads them
(R70 to R76), so the decoder takes that place, the input unit, as an argument. -/

namespace Sys2Proof

/-- The places where the block reads input (R78). -/
inductive InputUnit where
  /-- The read of 12 bytes at `OPEN` (R70). -/
  | fileHeader
  /-- The read of 8 bytes with `PHASE = CHDR` (R71). -/
  | chunkHeader
  /-- The read of `n = CH_ENC` bytes with `PHASE = PAYLOAD` (R72). -/
  | payload (n : Nat)
  /-- The byte `FH_CTYPE` at the dispatch (R74). -/
  | codecSelect
  /-- A byte of an IMA4 payload (R75). -/
  | ima4Byte
  /-- One IMA4 code, in the low four bits of a byte (R75). -/
  | ima4Nib
  /-- A byte of a WS8 payload, not yet classified (R141). -/
  | ws8Byte
  /-- A byte of a WS8 payload, classified by its high bit (R76). -/
  | ws8Command
  deriving DecidableEq, Repr

/-- Why no operation is read. -/
inductive DecodeError where
  /-- A unit of one byte was given no byte. -/
  | noByte
  /-- An IMA4 code was given with a bit above its four. -/
  | notANibble
  deriving DecidableEq, Repr

/-- The decoder's answer: an operation and the bytes after it, or a rejection by name. -/
inductive Decoded where
  | op (i : Instr) (rest : List Byte)
  | rejected (e : DecodeError)
  deriving DecidableEq, Repr

/-- `le16(b0, b1)` (R11): `b0` comes first in the stream and is the less significant (R57). -/
def le16 (b0 b1 : Byte) : BitVec 16 := b1 ++ b0

/-- `le32(b0, b1, b2, b3)` (R11). -/
def le32 (b0 b1 b2 b3 : Byte) : BitVec 32 := b3 ++ b2 ++ b1 ++ b0

/-- The two stream bytes of a u16 LE field (R57). -/
def bytes16 (v : BitVec 16) : List Byte := [v.extractLsb' 0 8, v.extractLsb' 8 8]

/-- The four stream bytes of a u32 LE field (R57). -/
def bytes32 (v : BitVec 32) : List Byte :=
  [v.extractLsb' 0 8, v.extractLsb' 8 8, v.extractLsb' 16 8, v.extractLsb' 24 8]

/-- The low nibble `b[3:0]`. -/
def lowNibble (b : Byte) : BitVec 4 := b.extractLsb' 0 4

/-- The high nibble `b[7:4]`. -/
def highNibble (b : Byte) : BitVec 4 := b.extractLsb' 4 4

/-- The file header's fields or the short read (R70, R79 (b)). -/
def decodeFileHeader : List Byte → Decoded
  | h0 :: h1 :: h2 :: h3 :: h4 :: h5 :: h6 :: h7 :: h8 :: h9 :: h10 :: h11 :: rest =>
    .op (.fhdr (le16 h0 h1) (le32 h2 h3 h4 h5) (le32 h6 h7 h8 h9) h10 h11) rest
  | h => .op (.fhdrShort h) []

/-- The chunk header's fields, the end of the stream, or the short read (R71, R79 (c), R103). -/
def decodeChunkHeader : List Byte → Decoded
  | c0 :: c1 :: c2 :: c3 :: c4 :: c5 :: c6 :: c7 :: rest =>
    .op (.chdr (le16 c0 c1) (le16 c2 c3) (le32 c4 c5 c6 c7)) rest
  | [] => .op .eos []
  | c => .op (.chdrShort c) []

/-- The codec that a `compressionType` byte selects (R74). -/
def decodeCodec (t : Byte) : Instr :=
  if t = 1#8 then .selWs8 else if t = 99#8 then .selIma4 else .selUnsupported t

/-- The class of a WS8 command byte, by its high bit, with its fields (R76, R77). -/
def decodeWs8 (b : Byte) : Instr :=
  if b.getLsbD 7 then .ws8Run (b.extractLsb' 0 7) else .ws8Delta (b.extractLsb' 4 3) (b.extractLsb' 0 4)

/-- The two codes of an IMA4 byte, low nibble first (R59, R75). -/
def decodeIma4 (b : Byte) : Instr := .ima4Byte (lowNibble b) (highNibble b)

/-- The operation that the first byte gives, or a rejection where there is none. -/
def decodeOne (f : Byte → Decoded) : List Byte → Decoded
  | [] => .rejected .noByte
  | b :: rest =>
    match f b with
    | .op i _ => .op i rest
    | .rejected e => .rejected e

/-- The decoder: total on any bytes, in every input unit. -/
def decode (u : InputUnit) (bs : List Byte) : Decoded :=
  match u with
  | .fileHeader => decodeFileHeader bs
  | .chunkHeader => decodeChunkHeader bs
  | .payload n => .op (.payload (bs.take n)) (bs.drop n)
  | .codecSelect => decodeOne (fun t => .op (decodeCodec t) []) bs
  | .ima4Byte => decodeOne (fun b => .op (decodeIma4 b) []) bs
  | .ima4Nib =>
    decodeOne (fun b => if highNibble b = 0#4 then .op (.ima4Nib (lowNibble b)) [] else .rejected .notANibble) bs
  | .ws8Byte => decodeOne (fun b => .op (.ws8Byte b) []) bs
  | .ws8Command => decodeOne (fun b => .op (decodeWs8 b) []) bs

/-- The bytes of an operation and the unit in which the block reads them (R70 to R77); none for an
operation that the table gives no bits (a host command, a step of the sequencer, a status function). -/
def encode : Instr → Option (InputUnit × List Byte)
  | .fhdr freq dataSize outputSize flags ctype =>
    some (.fileHeader, bytes16 freq ++ bytes32 dataSize ++ bytes32 outputSize ++ [flags, ctype])
  | .fhdrShort h => some (.fileHeader, h)
  | .chdr enc dec magic => some (.chunkHeader, bytes16 enc ++ bytes16 dec ++ bytes32 magic)
  | .chdrShort c => some (.chunkHeader, c)
  | .eos => some (.chunkHeader, [])
  | .payload p => some (.payload p.length, p)
  | .dispatch => none
  | .selWs8 => some (.codecSelect, [1#8])
  | .selIma4 => some (.codecSelect, [99#8])
  | .selUnsupported t => some (.codecSelect, [t])
  | .ima4Chunk => none
  | .ima4Byte lo hi => some (.ima4Byte, [hi ++ lo])
  | .ima4Nib code => some (.ima4Nib, [(0#4 ++ code : BitVec 8)])
  | .ws8Chunk => none
  | .ws8Byte b => some (.ws8Byte, [b])
  | .ws8Run count => some (.ws8Command, [(1#1 ++ count : BitVec 8)])
  | .ws8Delta code1 code2 => some (.ws8Command, [(0#1 ++ code1 ++ code2 : BitVec 8)])
  | .ws8Emit _ => none
  | .deliver => none
  | .cancel => none
  | .openCmd => none
  | .startCmd => none
  | .readCmd _ => none
  | .closeCmd => none
  | .bitrate => none
  | .channels => none

/-- The operations whose end is the end of the source: after them no byte may follow (R79 (b), (c),
R162). -/
def Instr.endsSource : Instr → Bool
  | .fhdrShort _ | .chdrShort _ | .eos => true
  | _ => false

/-- The `n` bytes of a word of the opcode table, its least significant byte first. -/
def wordBytes : Nat → Nat → List Byte
  | 0, _ => []
  | n + 1, w => BitVec.ofNat 8 w :: wordBytes n (w / 256)

/-- The unit in which a word of the opcode table is read, by its width: 12 bytes are a file header and
8 a chunk header; of one byte the rows of the table with the wider mask go first, so that 0x01 and
0x63 are `compressionType` bytes (mask 0xFF) and every other byte is a WS8 command (mask 0x80).
DESIGN CHOICE (log 19): the table's rows of one byte overlap, and only their place tells them apart. -/
def tableUnit (nbits w : Nat) : Option InputUnit :=
  if nbits = 96 then some .fileHeader
  else if nbits = 64 then some .chunkHeader
  else if nbits = 8 then some (if w % 256 = 1 ∨ w % 256 = 99 then .codecSelect else .ws8Command)
  else none

/-- The operation that the decoder reads from a word of spec/opcode_table.json. -/
def decodeTableWord (nbits w : Nat) : Option Instr :=
  match tableUnit nbits w with
  | none => none
  | some u =>
    match decode u (wordBytes (nbits / 8) w) with
    | .op i _ => some i
    | .rejected _ => none

end Sys2Proof
end

