-- ==== Sys2Proof/Machine/Operands.lean ====
section
/-! DEFINITION. The operand forms and the arithmetic of the decoders, as functions of values alone:
00_scope.md R10, 42_ima4.md R122 and R123, 43_ws8.md R143, and the codes of the status registers. -/

namespace Sys2Proof.Machine

/-- `clamp(v, lo, hi)` on integers (R10). -/
def clamp (v lo hi : Int) : Int := min (max v lo) hi

/-- `IMA_DIFF(step, code)` (R122): each shift truncates on its own, before the sum. -/
def imaDiff (step : Nat) (code : BitVec 4) : Nat :=
  (step >>> 3) + (if code.getLsbD 2 then step else 0) + (if code.getLsbD 1 then step >>> 1 else 0)
    + (if code.getLsbD 0 then step >>> 2 else 0)

/-- The predictor's integer sum before the clamp (R123): bit 3 of the code subtracts. -/
def imaSum (pred : BitVec 16) (step : Nat) (code : BitVec 4) : Int :=
  pred.toInt + (if code.getLsbD 3 then -(imaDiff step code : Int) else (imaDiff step code : Int))

/-- An integer as an index, clamped to 0..88 (R123). -/
def clampIndex (v : Int) : Fin 89 :=
  ⟨(clamp v 0 88).toNat, by unfold clamp; omega⟩

/-- The IMA4 decoder's step on its own state (R123): the new index and the new predictor. The step size
is read with the old index. -/
def imaNext (cfg : Params) (index : Fin 89) (pred : BitVec 16) (code : BitVec 4) : Fin 89 × BitVec 16 :=
  (clampIndex ((index.val : Int) + cfg.imaIndex[code.toNat]'(code.isLt)),
    BitVec.ofInt 16 (clamp (imaSum pred (cfg.imaStep[index.val]'(index.isLt)).val code) (-32768) 32767))

/-- The two output bytes of an IMA4 sample, low byte first (R58, R123). -/
def sampleBytes (pred : BitVec 16) : List Byte := [pred.extractLsb' 0 8, pred.extractLsb' 8 8]

/-- The WS8 predictor after one delta code (R143): an integer sum, then the clamp to 0..255. -/
def ws8Next (cfg : Params) (pred : BitVec 8) (code : BitVec 4) : BitVec 8 :=
  BitVec.ofInt 8 (clamp ((pred.toNat : Int) + cfg.ws8Delta[code.toNat]'(code.isLt)) 0 255)

/-- The code of `STATE` (R21). -/
def StreamState.code : StreamState → BitVec 3
  | .noStream => 0
  | .idle => 1
  | .running => 2
  | .closed => 3
  | .failed => 4
  | .openFail => 5

/-- The code of `PHASE` (R22). -/
def Phase.code : Phase → BitVec 2
  | .chdr => 0
  | .payload => 1
  | .decode => 2
  | .deliver => 3

/-- The code of `ERR` (R200). -/
def ErrorCode.code : ErrorCode → BitVec 3
  | .none => 0
  | .malformedHeader => 1
  | .unsupportedCodec => 2
  | .truncatedChunk => 3
  | .ioFailure => 4
  | .sizeMismatch => 5
  | .badMagic => 6

/-- The code of `CLOSE_CAUSE`, one bit (R20). DESIGN CHOICE (log 23): the spec names the two values and
gives no numbers. -/
def CloseCause.code : CloseCause → BitVec 1
  | .normal => 0
  | .cancelled => 1

/-- A terminal value of `STATE` (R21). -/
def StreamState.terminal : StreamState → Bool
  | .noStream => false
  | .idle => false
  | .running => false
  | .closed => true
  | .failed => true
  | .openFail => true

end Sys2Proof.Machine
end

