-- ==== Sys2Proof/Machine/Ops.lean ====
section
/-! DEFINITION. The operations every meaning is built from: the primitives of 00_scope.md R13, the two
failure entries of 60_exceptions.md R206 and R207, and the block's reset, the only way out of them
(R208: there is no return from a failure and no handler). -/

namespace Sys2Proof.Machine

/-- How a part of an operation ends: it goes on, or a failure (`raise`) has ended the operation, its
entry taken (R13, R203: no later check runs). -/
inductive Flow where
  | go (s : State)
  | ended (s : State)
  deriving DecidableEq, Repr

/-- Runs the next part, unless a failure has ended the operation. -/
def Flow.bind (f : Flow) (k : State → Flow) : Flow :=
  match f with
  | .go s => k s
  | .ended s => .ended s

/-- The state an operation leaves, failed or not: a failure entry is a next state of the machine. -/
def Flow.state : Flow → State
  | .go s => s
  | .ended s => s

/-- The outcome of an operation: the state it leaves is the next state. -/
def Flow.out (f : Flow) : Host.Outcome State Fault Refusal := .next f.state

/-! ## The failure entries and the reset -/

/-- The decoder state is discarded: its registers hold free values (R31; log 7). -/
def discardDecoder (s : State) : State :=
  { s with
    imaIndex := Config.freeImaIndex s.freeCount
    imaPred := Config.freeImaPred s.freeCount
    ws8Pred := Config.freeWs8Pred s.freeCount
    freeCount := s.freeCount + 1 }

/-- `raise Fail(E)`, the chunk-level failure entry (R206). `PHASE`, `CHUNK_COUNT`, `SRC_OFF` and `CHAN`
keep their values (R201, R167). -/
def fail (e : ErrorCode) (s : State) : State :=
  { discardDecoder s with err := e, state := .failed, sinkEnd := .abnormal, outbuf := [], payload := [] }

/-- The file-header registers hold no value: free values (R207; log 7). -/
def discardHeader (s : State) : State :=
  { s with
    fhFreq := Config.freeFhFreq s.freeCount
    fhDataSize := Config.freeFhDataSize s.freeCount
    fhOutSize := Config.freeFhOutSize s.freeCount
    fhFlags := Config.freeFhFlags s.freeCount
    fhCtype := Config.freeFhCtype s.freeCount
    freeCount := s.freeCount + 1 }

/-- `raise OpenFail(E)`, the open failure entry (R207): neither the decoder state nor the header registers
hold a value (R31, R207). -/
def openFail (e : ErrorCode) (s : State) : State :=
  { discardHeader (discardDecoder s) with err := e, state := .openFail }

/-- The block's reset (R230), at which the host fixes the parameters and positions a source (R232): every
register of R20 takes its reset value, and the caller waits for nothing. The schedule and the commands
that are left stay, and the new session's observation starts empty (log 22). -/
def blockReset (cfg : Params) (src : List Byte) (s : State) : State :=
  { State.reset with cfg := cfg, src := src, turns := s.turns, cmds := s.cmds, freeCount := s.freeCount,
                     freeMover := s.freeMover, freeLeft := s.freeLeft }

/-! ## Source, buffers and channel -/

/-- The bytes that `SrcRead(n)` returns where no fault is drawn (R51). -/
def srcPeek (n : Nat) (s : State) : List Byte := (s.src.drop s.srcOff).take n

/-- `SRC_OFF` holds no value after an `IOFailure` at a read: a free value (R201; log 8). -/
def loseSrcOff (s : State) : State :=
  { s with srcOff := Config.freeSrcOff s.freeCount, freeCount := s.freeCount + 1 }

/-- The effect of a `SrcRead` that returns `k` bytes (R51): a drawn fault is an `IOFailure`, taken by
`onFault`; otherwise the bytes are consumed. -/
def srcRead (k : Nat) (onFault : State → State) (s : State) : Flow :=
  if s.draw.ioFault then .ended (onFault (loseSrcOff s)) else .go { s with srcOff := s.srcOff + k }

/-- `OutAppend(b)` (R33). -/
def outAppend (b : Byte) (s : State) : State := { s with outbuf := s.outbuf ++ [b] }

/-- May the worker push a byte (R55)? -/
abbrev chanHasRoom (s : State) : Prop := s.chan.length < s.cfg.chanCap ∧ s.callerClosed = false

/-- `ChanPush(b)` where it may be performed (R55): a drawn sink fault is an `IOFailure` and pushes
nothing. -/
def chanPush (b : Byte) (s : State) : Flow :=
  if s.draw.ioFault then .ended (fail .ioFailure s) else .go { s with chan := s.chan ++ [b] }

/-- What the caller gets back is recorded (R180). -/
def record (r : HostResult) (s : State) : State := { s with results := s.results ++ [r] }

/-- A `READ` returns: its answer is recorded, and the caller is no longer suspended (R175). -/
def answer (r : HostResult) (s : State) : State := { record r s with callerWait := none }

/-- `k` times `ChanPop()`, and the bytes returned (R56, R175). -/
def chanPop (k : Nat) (s : State) : State :=
  answer (.bytes (s.chan.take k)) { s with chan := s.chan.drop k }

/-! ## When the worker has a step, and status reads -/

/-- The worker's step is the one of phase `p` (R161 (b), (c)). -/
abbrev workerAt (p : Phase) (s : State) : Prop :=
  s.state = .running ∧ s.cancelReq = false ∧ s.phase = p

/-- The chunk under decode is of the codec `t` (R165; R30: only the selected variant reads its state). -/
abbrev codecAt (t : BitVec 8) (s : State) : Prop := workerAt .decode s ∧ s.fhCtype = t

/-- `SRC_OFF` holds no value: an `IOFailure` at a read ended the stream. A sink fault keeps
`PHASE = DELIVER` (R201), so the registers themselves tell the two apart. -/
abbrev srcOffLost (s : State) : Prop :=
  s.err = .ioFailure ∧ (s.state = .openFail ∨ (s.state = .failed ∧ s.phase ≠ .deliver))

/-- A stream exists (R24): from a successful `OPEN` to the next reset. `READ` and `CLOSE` act only then (R175,
R177, R207). -/
abbrev headerKnown (s : State) : Prop := s.state ≠ .noStream ∧ s.state ≠ .openFail

/-- The value of a status register, as a number. -/
def statusValue (r : StatusReg) (s : State) : Nat :=
  match r with
  | .state => s.state.code.toNat
  | .err => s.err.code.toNat
  | .closeCause => s.closeCause.code.toNat
  | .fhFreq => s.fhFreq.toNat
  | .fhDataSize => s.fhDataSize.toNat
  | .fhOutSize => s.fhOutSize.toNat
  | .fhFlags => s.fhFlags.toNat
  | .fhCtype => s.fhCtype.toNat
  | .srcOff => s.srcOff
  | .chunkCount => s.chunkCount

/-- The caller's status read of a register (R37, R183), at any time (92_eei_decisions.md D14): it answers the
current value and changes nothing but what the caller holds. A register that nothing has written since reset
answers the value it holds (log 5, 6). Only `SRC_OFF` after an `IOFailure` at a source read stops (R201;
93_implementation_defined.md I11). -/
def statusRead (r : StatusReg) (s : State) : Host.Outcome State Fault Refusal :=
  if r = .srcOff ∧ srcOffLost s then .fault (.holdsNoValue .srcOff)
  else .next (record (.status r (statusValue r s)) s)

end Sys2Proof.Machine
end

