-- ==== Sys2Proof/Machine/Header.lean ====
section
/-! DEFINITION. The header operations of 41_header.md. -/

namespace Sys2Proof.Machine

/-! ## The file header -/

/-- `FHDR` (R100): the read of 12 bytes, then the five header registers. Neither the type, nor the sizes,
nor the flags are checked (R100, R101). -/
def fhdrFlow (frequency : BitVec 16) (dataSize outputSize : BitVec 32) (flags compressionType : BitVec 8)
    (s : State) : Flow :=
  (srcRead 12 (openFail .ioFailure) s).bind fun t =>
    .go { t with fhFreq := frequency, fhDataSize := dataSize, fhOutSize := outputSize, fhFlags := flags,
                 fhCtype := compressionType }

/-- `FHDR_SHORT` (R100): the read returned fewer than 12 bytes, and the open fails. -/
def fhdrShortFlow (h : List Byte) (s : State) : Flow :=
  (srcRead h.length (openFail .ioFailure) s).bind fun t => .ended (openFail .malformedHeader t)

/-- `FHDR`, with `STATE = NoStream` (R100). -/
def execFhdr (frequency : BitVec 16) (dataSize outputSize : BitVec 32) (flags compressionType : BitVec 8)
    (s : State) : Host.Outcome State Fault Refusal :=
  if s.state = .noStream then (fhdrFlow frequency dataSize outputSize flags compressionType s).out
  else .refused .notSelected

/-- `FHDR_SHORT`, with `STATE = NoStream` (R100). -/
def execFhdrShort (h : List Byte) (s : State) : Host.Outcome State Fault Refusal :=
  if s.state = .noStream then (fhdrShortFlow h s).out else .refused .notSelected

/-! ## The chunk header -/

/-- What the worker's chunk-header step does before its read (R163). -/
def beginChunk (s : State) : State := { s with outbuf := [], payload := [], dlvPtr := 0 }

/-- The worker's chunk-header read that returns `k` bytes (R163). -/
def chunkHeaderRead (k : Nat) (s : State) : Flow := srcRead k (fail .ioFailure) (beginChunk s)

/-- `CHDR` (R102): the header registers are written, then the magic is checked. -/
def chdrFlow (encodedSize decodedSize : BitVec 16) (magic : BitVec 32) (s : State) : Flow :=
  (chunkHeaderRead 8 s).bind fun t =>
    let t' := { t with chEnc := encodedSize, chDec := decodedSize, chMagic := magic }
    if t'.cfg.magicCheck = true ∧ magic ≠ t'.cfg.chunkMagic then .ended (fail .badMagic t')
    else .go { t' with phase := .payload }

/-- `CHDR`, the worker's step with `PHASE = CHDR` (R102, R163). -/
def execChdr (encodedSize decodedSize : BitVec 16) (magic : BitVec 32) (s : State) :
    Host.Outcome State Fault Refusal :=
  if workerAt .chdr s then (chdrFlow encodedSize decodedSize magic s).out else .refused .notSelected

/-- `CHDR_SHORT` (R103): 1 to 7 bytes came, and the stream fails. -/
def execChdrShort (c : List Byte) (s : State) : Host.Outcome State Fault Refusal :=
  if workerAt .chdr s then
    ((chunkHeaderRead c.length s).bind fun t => .ended (fail .malformedHeader t)).out
  else .refused .notSelected

/-! ## The status functions -/

/-- `BITRATE` (R104): the sample width of `FH_FLAGS`, for the caller, at any time (R183, D14). -/
def execBitrate (s : State) : Host.Outcome State Fault Refusal :=
  .next (record (.bitrate (bitrateOf s.fhFlags)) s)

/-- `CHANNELS` (R105): the channel count of `FH_FLAGS`, for the caller, at any time (R183, D14). -/
def execChannels (s : State) : Host.Outcome State Fault Refusal :=
  .next (record (.channels (channelsOf s.fhFlags)) s)

end Sys2Proof.Machine
end

