-- ==== Sys2Proof/Machine/Caller.lean ====
section
/-! DEFINITION. The host commands of 44_sequencer.md. -/

namespace Sys2Proof.Machine

/-- The `FHDR` of `OPEN` (R100, R160): the header that the source holds, or its short read. -/
def openHeader (s : State) : Flow :=
  match decodeFileHeader (srcPeek 12 s) with
  | .op (.fhdr frequency dataSize outputSize flags compressionType) _ =>
    fhdrFlow frequency dataSize outputSize flags compressionType s
  | _ => fhdrShortFlow (srcPeek 12 s) s

/-- What `OPEN` writes once the header is read (R160): both variants' decoder state is initialised. -/
def openStream (s : State) : State :=
  { s with
    imaIndex := 0
    imaPred := 0
    ws8Pred := 0x80
    chan := []
    sinkEnd := .isOpen
    failSeen := false
    cancelReq := false
    callerClosed := false
    chunkCount := 0
    err := .none
    state := .idle }

/-- `OPEN` (R160). -/
def execOpen (s : State) : Host.Outcome State Fault Refusal :=
  if s.state = .noStream then ((openHeader s).bind fun t => .go (openStream t)).out
  else .refused .openRefused

/-- `START` (R170). -/
def execStart (s : State) : Host.Outcome State Fault Refusal :=
  if s.state = .idle ∧ s.callerClosed = false then .next { s with state := .running, phase := .chdr }
  else .refused .startRefused

/-- How many bytes this step's draw lets a `READ(n)` return, where bytes are buffered: a count from 1 to
`min(n, len(CHAN))`, each of which some draw gives (R175; log 9). -/
def readCount (n : Nat) (s : State) : Nat := 1 + s.draw.readCount % min n s.chan.length

/-- `READ(n)` where it is admitted (R175, R176). -/
def readAdmitted (n : Nat) (s : State) : State :=
  if s.failSeen = true then answer (.error s.err) s
  else if s.sinkEnd = .abnormal then
    if s.chan ≠ [] ∧ s.draw.readError = false then chanPop (readCount n s) s
    else answer (.error s.err) { s with failSeen := true, chan := [] }
  else if s.chan ≠ [] then chanPop (readCount n s) s
  else if s.sinkEnd = .eof then answer .endOfStream s
  else { s with callerWait := some n }

/-- `READ(n)` (R175). Where it blocks, the caller is suspended in it, and a later move tries it again. -/
def execRead (n : Nat) (s : State) : Host.Outcome State Fault Refusal :=
  if headerKnown s ∧ s.callerClosed = false ∧ 1 ≤ n then .next (readAdmitted n s)
  else .refused .readRefused

/-- What the first `CLOSE` of an open stream does to the state of the stream (R177). -/
def closeStream (s : State) : State :=
  match s.state with
  | .idle => { discardDecoder s with state := .closed, closeCause := .cancelled }
  | .running => { s with cancelReq := true }
  | .noStream => s
  | .closed => s
  | .failed => s
  | .openFail => s

/-- `CLOSE` (R177): always admitted, and idempotent. A `READ` that is suspended is given up: DESIGN CHOICE
(log 30), since the rules give it no step after the close. -/
def execClose (s : State) : Host.Outcome State Fault Refusal :=
  if headerKnown s ∧ s.callerClosed = false then
    .next (closeStream { s with callerClosed := true, chan := [], callerWait := none })
  else .next s

end Sys2Proof.Machine
end

