-- ==== Sys2Proof/Machine/Ima4.lean ====
section
/-! DEFINITION. IMA4, the 4-bit predictive decoder of 42_ima4.md. Its operations are parts of the one
atomic `DECODE` step (20_memory.md R61). -/

namespace Sys2Proof.Machine

/-- `IMA4.NIB(code)` (R123): the new predictor and index, and the new predictor's two bytes, low first. -/
def ima4Nib (code : BitVec 4) (s : State) : State :=
  let next := imaNext s.cfg s.imaIndex s.imaPred code
  { s with imaIndex := next.1, imaPred := next.2, outbuf := s.outbuf ++ sampleBytes next.2 }

/-- `IMA4.BYTE` (R124): the low code, then the high code in the state it left. -/
def ima4Byte (lo hi : BitVec 4) (s : State) : State := ima4Nib hi (ima4Nib lo s)

/-- The bytes of a payload in order (R125). -/
def ima4Bytes : List Byte → State → State
  | [], s => s
  | b :: bs, s => ima4Bytes bs (ima4Byte (lowNibble b) (highNibble b) s)

/-- `IMA4.CHUNK` (R125): the size check, before any code is decoded, then bytes 0 to `CH_ENC - 1`. -/
def ima4Chunk (s : State) : Flow :=
  if s.chDec.toNat ≠ 4 * s.chEnc.toNat then .ended (fail .sizeMismatch s)
  else .go (ima4Bytes (s.payload.take s.chEnc.toNat) s)

/-- `IMA4.NIB`, within the decode of an IMA4 chunk (R123). -/
def execIma4Nib (code : BitVec 4) (s : State) : Host.Outcome State Fault Refusal :=
  if codecAt 99 s then .next (ima4Nib code s) else .refused .notSelected

/-- `IMA4.BYTE`, within the decode of an IMA4 chunk (R124). -/
def execIma4Byte (lo hi : BitVec 4) (s : State) : Host.Outcome State Fault Refusal :=
  if codecAt 99 s then .next (ima4Byte lo hi s) else .refused .notSelected

/-- `IMA4.CHUNK`, the decode of an IMA4 chunk (R125). -/
def execIma4Chunk (s : State) : Host.Outcome State Fault Refusal :=
  if codecAt 99 s then (ima4Chunk s).out else .refused .notSelected

end Sys2Proof.Machine
end

