-- ==== Sys2Proof/Machine/Ws8.lean ====
section
/-! DEFINITION. WS8, the 8-bit predictive decoder of 43_ws8.md. Its operations are parts of the one
atomic `DECODE` step (20_memory.md R61). -/

namespace Sys2Proof.Machine

/-- `WS8.EMIT(v)` (R144): a byte beyond `CH_DEC` is a `SizeMismatch`. -/
def ws8Emit (v : Byte) (s : State) : Flow :=
  if s.outbuf.length = s.chDec.toNat then .ended (fail .sizeMismatch s) else .go (outAppend v s)

/-- `count` times `WS8.EMIT(WS8_PRED)` (R142). -/
def ws8Repeat : Nat → State → Flow
  | 0, s => .go s
  | n + 1, s => (ws8Emit s.ws8Pred s).bind (ws8Repeat n)

/-- `WS8.RUN` (R142). -/
def ws8Run (count : BitVec 7) (s : State) : Flow := ws8Repeat count.toNat s

/-- One delta code (R143): the predictor is written, then emitted. -/
def ws8Code (code : BitVec 4) (s : State) : Flow :=
  let pred := ws8Next s.cfg s.ws8Pred code
  ws8Emit pred { s with ws8Pred := pred }

/-- `WS8.DELTA` (R143): the first code, then the second on the predictor already clamped. -/
def ws8Delta (code1 : BitVec 3) (code2 : BitVec 4) (s : State) : Flow :=
  (ws8Code (code1.setWidth 4) s).bind (ws8Code code2)

/-- `WS8.BYTE` (R141): the command byte's class, by its high bit, and its fields as `decodeWs8` reads
them. -/
def ws8Byte (b : Byte) (s : State) : Flow :=
  if b.getLsbD 7 then ws8Run (b.extractLsb' 0 7) s
  else ws8Delta (b.extractLsb' 4 3) (b.extractLsb' 0 4) s

/-- The bytes of a payload in order (R145). -/
def ws8Bytes : List Byte → State → Flow
  | [], s => .go s
  | b :: bs, s => (ws8Byte b s).bind (ws8Bytes bs)

/-- `WS8.CHUNK` (R145): bytes 0 to `CH_ENC - 1`, then the check that they gave `CH_DEC` bytes. -/
def ws8Chunk (s : State) : Flow :=
  (ws8Bytes (s.payload.take s.chEnc.toNat) s).bind fun t =>
    if t.outbuf.length ≠ t.chDec.toNat then .ended (fail .sizeMismatch t) else .go t

/-- `WS8.EMIT`, within the decode of a WS8 chunk (R144). -/
def execWs8Emit (v : Byte) (s : State) : Host.Outcome State Fault Refusal :=
  if codecAt 1 s then (ws8Emit v s).out else .refused .notSelected

/-- `WS8.RUN`, within the decode of a WS8 chunk (R142). -/
def execWs8Run (count : BitVec 7) (s : State) : Host.Outcome State Fault Refusal :=
  if codecAt 1 s then (ws8Run count s).out else .refused .notSelected

/-- `WS8.DELTA`, within the decode of a WS8 chunk (R143). -/
def execWs8Delta (code1 : BitVec 3) (code2 : BitVec 4) (s : State) : Host.Outcome State Fault Refusal :=
  if codecAt 1 s then (ws8Delta code1 code2 s).out else .refused .notSelected

/-- `WS8.BYTE`, within the decode of a WS8 chunk (R141). -/
def execWs8Byte (b : Byte) (s : State) : Host.Outcome State Fault Refusal :=
  if codecAt 1 s then (ws8Byte b s).out else .refused .notSelected

/-- `WS8.CHUNK`, the decode of a WS8 chunk (R145). -/
def execWs8Chunk (s : State) : Host.Outcome State Fault Refusal :=
  if codecAt 1 s then (ws8Chunk s).out else .refused .notSelected

end Sys2Proof.Machine
end

