-- ==== Sys2Proof/Machine/Sequencer.lean ====
section
/-! DEFINITION. The worker's loop of 44_sequencer.md. -/

namespace Sys2Proof.Machine

/-- `EOS` (R162): the chunk-header read returned no byte, and the stream ends normally. What is in `CHAN`
stays for the caller; the decoder state is discarded (R31). -/
def execEos (s : State) : Host.Outcome State Fault Refusal :=
  if workerAt .chdr s then
    ((chunkHeaderRead 0 s).bind fun t =>
      .go { discardDecoder t with state := .closed, closeCause := .normal, sinkEnd := .eof }).out
  else .refused .notSelected

/-- `PAYLOAD` (R164): `p` is what the read of `CH_ENC` bytes returned, so it has no more than that. A fault drawn
at the read is an `IOFailure` even where `CH_ENC` is 0: DESIGN CHOICE (log 31), since R51 draws a fault at
every `SrcRead(n)` with `n ≥ 0` and R164 says of `CH_ENC = 0` that it "always succeeds". -/
def execPayload (p : List Byte) (s : State) : Host.Outcome State Fault Refusal :=
  if workerAt .payload s ∧ p.length ≤ s.chEnc.toNat then
    ((srcRead p.length (fail .ioFailure) s).bind fun t =>
      if p.length < t.chEnc.toNat then .ended (fail .truncatedChunk t)
      else .go { t with payload := p, phase := .decode }).out
  else .refused .notSelected

/-! ## Dispatch and decode -/

/-- What follows a chunk's decode (R165). -/
def beginDelivery (s : State) : Flow := .go { s with dlvPtr := 0, phase := .deliver }

/-- The dispatch's arm for `compressionType` 1 (R165). -/
def selectWs8 (s : State) : Flow := (ws8Chunk s).bind beginDelivery

/-- The dispatch's arm for `compressionType` 99 (R165). -/
def selectIma4 (s : State) : Flow := (ima4Chunk s).bind beginDelivery

/-- The dispatch's arm for any other `compressionType` (R165). -/
def selectUnsupported (s : State) : Flow := .ended (fail .unsupportedCodec s)

/-- `DISPATCH` (R165): the whole decode of a chunk, one atomic step (20_memory.md R61). -/
def execDispatch (s : State) : Host.Outcome State Fault Refusal :=
  if workerAt .decode s then
    (if s.fhCtype = 99 then selectIma4 s else if s.fhCtype = 1 then selectWs8 s else selectUnsupported s).out
  else .refused .notSelected

/-- `SEL_WS8`: the dispatch where `FH_CTYPE` is 1 (R74, R165). -/
def execSelWs8 (s : State) : Host.Outcome State Fault Refusal :=
  if codecAt 1 s then (selectWs8 s).out else .refused .notSelected

/-- `SEL_IMA4`: the dispatch where `FH_CTYPE` is 99 (R74, R165). -/
def execSelIma4 (s : State) : Host.Outcome State Fault Refusal :=
  if codecAt 99 s then (selectIma4 s).out else .refused .notSelected

/-- `SEL_UNSUPPORTED`: the dispatch where `FH_CTYPE` is a value that selects no codec (R74, R165). -/
def execSelUnsupported (compressionType : BitVec 8) (s : State) : Host.Outcome State Fault Refusal :=
  if codecAt compressionType s ∧ compressionType ≠ 1 ∧ compressionType ≠ 99 then (selectUnsupported s).out
  else .refused .notSelected

/-! ## Delivery and cancellation -/

/-- Has the worker no `DELIVER` step (R161 (c), R168)? A byte is left, and it may not push it (R55). -/
abbrev deliverBlocked (s : State) : Prop := s.dlvPtr.toNat < s.outbuf.length ∧ ¬ chanHasRoom s

/-- The end of `DELIVER` (R168): a chunk whose every byte has entered `CHAN` is counted (R169), and the
loop goes on. -/
def deliverEnd (s : State) : State :=
  if s.dlvPtr.toNat = s.outbuf.length then { s with chunkCount := s.chunkCount + 1, phase := .chdr } else s

/-- `DELIVER` (R168): the byte at `DLV_PTR`, if one is left, is pushed. A blocked worker has no step in
the spec; that `DELIVER` then answers the state unchanged is a DESIGN CHOICE (log 12). -/
def deliverFlow (s : State) : Flow :=
  match s.outbuf[s.dlvPtr.toNat]? with
  | none => .go (deliverEnd s)
  | some b =>
    if chanHasRoom s then (chanPush b s).bind fun t => .go (deliverEnd { t with dlvPtr := t.dlvPtr + 1 })
    else .go s

/-- `DELIVER`, the worker's step with `PHASE = DELIVER` (R168). -/
def execDeliver (s : State) : Host.Outcome State Fault Refusal :=
  if workerAt .deliver s then (deliverFlow s).out else .refused .notSelected

/-- `CANCEL` (R178), whatever the phase: `OUTBUF`, `PAYLOAD` and the decoder state are discarded, `ERR`
stays. -/
def execCancel (s : State) : Host.Outcome State Fault Refusal :=
  if s.state = .running ∧ s.cancelReq = true then
    .next { discardDecoder s with state := .closed, closeCause := .cancelled, outbuf := [], payload := [] }
  else .refused .notSelected

end Sys2Proof.Machine
end

