-- ==== Sys2Proof/Machine/Dispatch.lean ====
section
/-! DEFINITION. One arm per operation: its meaning. -/

namespace Sys2Proof.Machine

def exec (i : Instr) (s : State) : Host.Outcome State Fault Refusal :=
  match i with
  | .fhdr frequency dataSize outputSize flags compressionType => Sys2Proof.Machine.execFhdr frequency dataSize outputSize flags compressionType s
  | .fhdrShort h => Sys2Proof.Machine.execFhdrShort h s
  | .chdr encodedSize decodedSize magic => Sys2Proof.Machine.execChdr encodedSize decodedSize magic s
  | .chdrShort c => Sys2Proof.Machine.execChdrShort c s
  | .eos => Sys2Proof.Machine.execEos s
  | .payload p => Sys2Proof.Machine.execPayload p s
  | .dispatch => Sys2Proof.Machine.execDispatch s
  | .selWs8 => Sys2Proof.Machine.execSelWs8 s
  | .selIma4 => Sys2Proof.Machine.execSelIma4 s
  | .selUnsupported compressionType => Sys2Proof.Machine.execSelUnsupported compressionType s
  | .ima4Chunk => Sys2Proof.Machine.execIma4Chunk s
  | .ima4Byte lo hi => Sys2Proof.Machine.execIma4Byte lo hi s
  | .ima4Nib code => Sys2Proof.Machine.execIma4Nib code s
  | .ws8Chunk => Sys2Proof.Machine.execWs8Chunk s
  | .ws8Byte b => Sys2Proof.Machine.execWs8Byte b s
  | .ws8Run count => Sys2Proof.Machine.execWs8Run count s
  | .ws8Delta code1 code2 => Sys2Proof.Machine.execWs8Delta code1 code2 s
  | .ws8Emit v => Sys2Proof.Machine.execWs8Emit v s
  | .deliver => Sys2Proof.Machine.execDeliver s
  | .cancel => Sys2Proof.Machine.execCancel s
  | .openCmd => Sys2Proof.Machine.execOpen s
  | .startCmd => Sys2Proof.Machine.execStart s
  | .readCmd n => Sys2Proof.Machine.execRead n s
  | .closeCmd => Sys2Proof.Machine.execClose s
  | .bitrate => Sys2Proof.Machine.execBitrate s
  | .channels => Sys2Proof.Machine.execChannels s

end Sys2Proof.Machine
end

