-- ==== Sys2Proof/Machine/Agents.lean ====
section
/-! DEFINITION. What the two agents do next (00_scope.md R15, 44_sequencer.md R161), which of them moves
(log 1, 2), and how a word of the opcode table is placed before the next step (log 20). -/

namespace Sys2Proof.Machine

/-- A move of the agent. -/
def Agent.turn (a : Agent) (d : Draw) : Turn :=
  match a with
  | .worker => .worker d
  | .caller => .caller d

/-- The agent whose stretch of moves comes next. -/
def Agent.other : Agent → Agent
  | .worker => .caller
  | .caller => .worker

/-- A move that no listed turn schedules, with a free draw: the agents move in stretches that alternate, each
of a free length of one move or more. So every order in which both move again and again is a value of
the lengths, and an agent's step that stays enabled is eventually taken (R236; log 2). -/
def freeTurn (s : State) : Turn × State :=
  match s.freeLeft with
  | k + 1 =>
    (s.freeMover.turn (Config.freeDraw s.freeCount), { s with freeLeft := k, freeCount := s.freeCount + 1 })
  | 0 =>
    (s.freeMover.other.turn (Config.freeDraw s.freeCount),
      { s with
        freeMover := s.freeMover.other, freeLeft := Config.freeStretch s.freeCount,
        freeCount := s.freeCount + 1 })

/-- The next move and the state without it: the first listed one, or an agent's own (log 1, 2). -/
def takeTurn (s : State) : Turn × State :=
  match s.turns with
  | t :: ts => (t, { s with turns := ts })
  | [] => freeTurn s

/-! ## The worker -/

/-- The operation that the decoder answers, if it answers one. -/
def Decoded.instr? : Decoded → Option Instr
  | .op i _ => some i
  | .rejected _ => none

/-- The worker's next operation, if it has a step (R161). The records are decoded from the bytes that the
read of the phase returns (R163, R164). -/
def workerFetch (s : State) : Option Instr :=
  if s.state = .running then
    if s.cancelReq = true then some .cancel
    else
      match s.phase with
      | .chdr => Decoded.instr? (decode .chunkHeader (srcPeek 8 s))
      | .payload => Decoded.instr? (decode (.payload s.chEnc.toNat) (srcPeek s.chEnc.toNat s))
      | .decode => some .dispatch
      | .deliver => if deliverBlocked s then none else some .deliver
  else none

/-- The worker's move: its operation, or nothing where it has no step (R161). -/
def workerMove (s : State) : Host.Outcome State Fault Refusal :=
  match workerFetch s with
  | some i => exec i s
  | none => .next s

/-! ## The caller -/

/-- The operation of a host command; a status read of a register is no row of the table. -/
def HostCmd.instr? : HostCmd → Option Instr
  | .openStream => some .openCmd
  | .start => some .startCmd
  | .read n => some (.readCmd n)
  | .close => some .closeCmd
  | .bitrate => some .bitrate
  | .channels => some .channels
  | .status _ => none

/-- The caller's first command not yet issued, and the state without it. -/
def nextCommand (s : State) : Option (HostCmd × State) :=
  match s.cmds with
  | c :: cs => some (c, { s with cmds := cs })
  | [] => none

/-- A host command that the caller may issue while it is suspended in a `READ` (R183): any but a second `READ`,
which waits for the first (R68, R233: a single reader). -/
def HostCmd.besideRead : HostCmd → Bool
  | .openStream => true
  | .start => true
  | .read _ => false
  | .close => true
  | .bitrate => true
  | .channels => true
  | .status _ => true

/-- Would a `READ` block (R175): no failure seen, the sink open, nothing buffered? -/
abbrev readBlocked (s : State) : Prop := s.failSeen = false ∧ s.sinkEnd = .isOpen ∧ s.chan = []

/-- The next command of a caller that is suspended in `READ(n)` (R14, R175): `START`, `CLOSE` or a status read
may come while it waits ("A `READ` in `Idle` blocks until `START` and a delivery"). A `READ` that can return
does so, unless the draw lets another command go first (R18; log 30). -/
def suspendedFetch (n : Nat) (s : State) : Option (HostCmd × State) :=
  match nextCommand s with
  | some (c, t) =>
    if c.besideRead = true ∧ (readBlocked s ∨ s.draw.commandFirst = true) then some (c, t) else some (.read n, s)
  | none => some (.read n, s)

/-- The caller's next command and the state without it. -/
def callerFetch (s : State) : Option (HostCmd × State) :=
  match s.callerWait with
  | some n => suspendedFetch n s
  | none => nextCommand s

/-- A host command's effect (R183). -/
def issue (c : HostCmd) (s : State) : Host.Outcome State Fault Refusal :=
  match c with
  | .openStream => exec .openCmd s
  | .start => exec .startCmd s
  | .read n => exec (.readCmd n) s
  | .close => exec .closeCmd s
  | .bitrate => exec .bitrate s
  | .channels => exec .channels s
  | .status r => statusRead r s

/-- The caller's move: its next command, or nothing where it has none. -/
def callerMove (s : State) : Host.Outcome State Fault Refusal :=
  match callerFetch s with
  | some (c, t) => issue c t
  | none => .next s

/-! ## Placing a word of the opcode table -/

/-- A draw with no I/O fault, the least count, and no command before a suspended `READ`. -/
def quietDraw : Draw := ⟨false, 0, false, false⟩

/-- The next step is the caller's `OPEN` on a source that holds these bytes. -/
def placeAtOpen (bs : List Byte) (s : State) : State :=
  { s with state := .noStream, src := bs, srcOff := 0, callerWait := none, cmds := [.openStream],
           turns := [.caller quietDraw] }

/-- The next step is the worker's, in this phase, on a source that holds these bytes. -/
def placeAtWorker (p : Phase) (bs : List Byte) (s : State) : State :=
  { s with state := .running, cancelReq := false, phase := p, src := bs, srcOff := 0,
           turns := [.worker quietDraw] }

/-- The next step is the decode of a chunk with this type, this payload and this decoded size. -/
def placeAtDecode (ctype : BitVec 8) (bs : List Byte) (decodedSize : Nat) (s : State) : State :=
  { placeAtWorker .decode [] s with
    fhCtype := ctype, payload := bs, outbuf := [], chEnc := BitVec.ofNat 16 bs.length,
    chDec := BitVec.ofNat 16 decodedSize }

/-- The word of the table, placed where the next step runs it (log 20). -/
def placeWord (nbits w : Nat) (s : State) : State :=
  let bs := wordBytes (nbits / 8) w
  match decodeTableWord nbits w with
  | some (.fhdr _ _ _ _ _) => placeAtOpen bs s
  | some (.chdr _ _ _) => placeAtWorker .chdr bs s
  | some .selWs8 => placeAtDecode 1 [] 0 s
  | some .selIma4 => placeAtDecode 99 [] 0 s
  | some (.ws8Run count) => placeAtDecode 1 bs count.toNat s
  | some (.ws8Delta _ _) => placeAtDecode 1 bs 2 s
  | _ => s

end Sys2Proof.Machine
end

