-- ==== Sys2Proof/Machine/Step.lean ====
section
/-! DEFINITION. One step of the block: one atomic step of one agent (00_scope.md R14), or the block's
reset. -/

namespace Sys2Proof.Machine

/-- One step: the schedule's next move, made with its draws (R18). -/
def step (s : State) : Host.Outcome State Fault Refusal :=
  match takeTurn s with
  | (.worker d, t) => workerMove { t with draw := d }
  | (.caller d, t) => callerMove { t with draw := d }
  | (.reset cfg src, t) => .next (blockReset cfg src t)

/-- The state whose next step runs the operation of a word of the opcode table (log 20). -/
def State.withFetchWord (s : State) (nbits w : Nat) : State := placeWord nbits w s

end Sys2Proof.Machine
end

