-- ==== Sys2Proof/Machine/Observation.lean ====
section
/-! DEFINITION. The end of a run and what it shows (44_sequencer.md R180). -/

namespace Sys2Proof.Machine

/-- Is the answer one of a `READ` (R175)? -/
def HostResult.ofRead : HostResult → Bool
  | .bytes _ => true
  | .endOfStream => true
  | .error _ => true
  | .bitrate _ => false
  | .channels _ => false
  | .status _ _ => false

/-- The answer, if it is one after which the stream gives no more bytes: `END` or `ERROR` (R175, R176). -/
def HostResult.ending : HostResult → Option HostResult
  | .bytes _ => none
  | .endOfStream => some .endOfStream
  | .error e => some (.error e)
  | .bitrate _ => none
  | .channels _ => none
  | .status _ _ => none

/-- The byte list that a `READ` returned, if the answer is one. -/
def HostResult.bytes? : HostResult → Option (List Byte)
  | .bytes bs => some bs
  | .endOfStream => none
  | .error _ => none
  | .bitrate _ => none
  | .channels _ => none
  | .status _ _ => none

/-- `END` or `ERROR`, if the last `READ` that returned gave it. -/
def finalAnswer (results : List HostResult) : Option HostResult :=
  (results.filter HostResult.ofRead).getLast?.bind HostResult.ending

/-- The run is over (R180): `STATE` is terminal, and the caller has closed, or the open failed, or `CHAN` is
empty and the last `READ` returned `END` or `ERROR`. -/
def runOver (s : State) : Prop :=
  s.state.terminal = true ∧
    (s.callerClosed = true ∨ s.state = .openFail ∨ (s.chan = [] ∧ finalAnswer s.results ≠ none))

/-- What a run shows (R180). -/
structure Observation where
  /-- The byte lists that the caller's `READ`s returned, oldest first. -/
  reads : List (List Byte)
  /-- The final `END` or `ERROR(ERR)`, if a `READ` has returned one. -/
  final : Option HostResult
  /-- The final `STATE`. -/
  state : StreamState
  /-- The final `ERR`. -/
  err : ErrorCode
  /-- The final `CLOSE_CAUSE`. -/
  closeCause : CloseCause
  /-- The final `SRC_OFF`. -/
  srcOff : Nat
  /-- The final `CHUNK_COUNT`. -/
  chunkCount : Nat
  deriving DecidableEq, Repr

/-- The observation of the run that ends in `s` (R180). -/
def observe (s : State) : Observation where
  reads := s.results.filterMap HostResult.bytes?
  final := finalAnswer s.results
  state := s.state
  err := s.err
  closeCause := s.closeCause
  srcOff := s.srcOff
  chunkCount := s.chunkCount

end Sys2Proof.Machine
end

