-- ==== Sys2Proof/Safety.lean ====
section
/-! DEFINITION. The terms that statements use: the invariant of the registers (10_state.md), what the
caller has got back (20_memory.md R64), the two failure entries as relations (60_exceptions.md R206,
R207), and the two decoders once more, as recursions on integers (42_ima4.md, 43_ws8.md). -/

namespace Sys2Proof.Machine

/-- The relations between the registers that the rules of the spec keep. -/
structure RegInv (s : State) : Prop where
  /-- R8: the channel holds at least one byte. -/
  cap : s.cfg.Wf
  /-- R8, R232: so it does in every session that the schedule still opens. -/
  scheduleCap : ∀ cfg src, Turn.reset cfg src ∈ s.turns → cfg.Wf
  /-- R35, R66: backpressure. -/
  chanBound : s.chan.length ≤ s.cfg.chanCap
  /-- R33, R240: the bound of `OUTBUF`. -/
  outbufBound : s.outbuf.length ≤ 65535
  /-- R33, R240: the bound of `PAYLOAD`. -/
  payloadBound : s.payload.length ≤ 65535
  /-- R51: no byte past the end of the source is consumed. -/
  srcBound : s.srcOff ≤ s.src.length ∨ srcOffLost s
  /-- R163, R164: the buffers are empty while the payload is read. -/
  payloadPhase : s.state = .running → s.phase = .payload → s.outbuf = [] ∧ s.payload = []
  /-- R164: the decode finds `CH_ENC` bytes of payload and no output (R125, R145). -/
  decodePhase : s.state = .running → s.phase = .decode →
    s.outbuf = [] ∧ s.payload.length = s.chEnc.toNat
  /-- R125, R145, R34: a chunk that is delivered has exactly `CH_DEC` bytes, and `DLV_PTR` points into
  them. -/
  deliverPhase : s.state = .running → s.phase = .deliver →
    s.outbuf.length = s.chDec.toNat ∧ s.dlvPtr.toNat ≤ s.outbuf.length
  /-- R32: `ERR` holds a code exactly when a failure has been taken. -/
  errIff : s.err ≠ .none ↔ s.state = .failed ∨ s.state = .openFail
  /-- R35, R206: the sink is closed abnormally exactly after a chunk-level failure. -/
  abnormalIff : s.sinkEnd = .abnormal ↔ s.state = .failed
  /-- R35, R162: the sink is closed normally exactly after the end of the stream. -/
  eofIff : s.sinkEnd = .eof ↔ s.state = .closed ∧ s.closeCause = .normal
  /-- R176: a read has surfaced a failure only after one, and no byte is buffered then. -/
  failSeenAbnormal : s.failSeen = true → s.sinkEnd = .abnormal ∧ s.chan = []
  /-- R177: after the caller's close nothing is buffered and a running worker is asked to end. -/
  closedCaller : s.callerClosed = true →
    s.chan = [] ∧ headerKnown s ∧ s.state ≠ .idle ∧ (s.state = .running → s.cancelReq = true)
  /-- R177: only the caller's close asks for the end. -/
  cancelClosed : s.cancelReq = true → s.callerClosed = true
  /-- R183: no byte is buffered before `START`. -/
  beforeStart : s.state = .noStream ∨ s.state = .idle ∨ s.state = .openFail → s.chan = []
  /-- R175, R177: a `READ` is suspended only while a stream is open to the caller. -/
  waiting : ∀ n, s.callerWait = some n → headerKnown s ∧ s.callerClosed = false ∧ 1 ≤ n
  /-- R175: a `READ` has returned `END` only after a normal close. -/
  endSeen : finalAnswer s.results = some .endOfStream → s.sinkEnd = .eof
  /-- R175, R176: a `READ` has returned `ERROR` only where the failure has surfaced, with the code in `ERR`. -/
  errorSeen : ∀ e, finalAnswer s.results = some (.error e) → s.failSeen = true ∧ e = s.err

/-- A run without an end. -/
def InfiniteRun (r : Nat → State) : Prop := ∀ n, step (r n) = .next (r (n + 1))

/-- The steps of the agents that fairness speaks of (R236): the worker's (R161), the issue of the caller's next
command (R183), and the return of a `READ` in which the caller is suspended (R175). -/
inductive AgentStep where
  | worker
  | command
  | read
  deriving DecidableEq, Repr

/-- Has the agent this step? -/
def AgentStep.enabled (k : AgentStep) (s : State) : Prop :=
  match k with
  | .worker => workerFetch s ≠ none
  | .command => ∃ c cs, s.cmds = c :: cs ∧ (s.callerWait = none ∨ c.besideRead = true)
  | .read => ∃ n, s.callerWait = some n ∧ ¬ readBlocked s

/-- Is this the step that the machine takes next? -/
def AgentStep.taken (k : AgentStep) (s : State) : Prop :=
  match k with
  | .worker => workerFetch s ≠ none ∧ ∃ d t, takeTurn s = (.worker d, t)
  | .command => ∃ d t c cs, takeTurn s = (.caller d, t) ∧ s.cmds = c :: cs ∧
      callerFetch { t with draw := d } = some (c, { t with draw := d, cmds := cs })
  | .read => ∃ d t n, takeTurn s = (.caller d, t) ∧ s.callerWait = some n ∧
      callerFetch { t with draw := d } = some (.read n, { t with draw := d })

/-- Weak fairness (R236): "an agent step that stays enabled is eventually taken". -/
def WeaklyFair (r : Nat → State) : Prop :=
  ∀ (k : AgentStep) (n : Nat), (∀ m, n ≤ m → k.enabled (r m)) → ∃ m, n ≤ m ∧ k.taken (r m)

/-- The bytes that one answer gave the caller. -/
def HostResult.got : HostResult → List Byte
  | .bytes bs => bs
  | .endOfStream => []
  | .error _ => []
  | .bitrate _ => []
  | .channels _ => []
  | .status _ _ => []

/-- The caller's byte stream so far (R64, R180). -/
def received (s : State) : List Byte := (s.results.map HostResult.got).flatten

/-- A status read of `r` answers `v` and changes nothing but what the caller holds (R183). -/
def answers (r : StatusReg) (v : Nat) (s : State) : Prop :=
  statusRead r s = .next { s with results := s.results ++ [.status r v] }

/-- `t` is what `raise Fail(e)` leaves of `s` (R206): the listed registers, and nothing said of the
decoder state (R31). -/
structure FailedWith (e : ErrorCode) (s t : State) : Prop where
  err : t.err = e
  state : t.state = .failed
  sinkEnd : t.sinkEnd = .abnormal
  outbuf : t.outbuf = []
  payload : t.payload = []
  /-- Everything else is as before. -/
  frame : t = { s with
    err := t.err, state := t.state, sinkEnd := t.sinkEnd, outbuf := t.outbuf, payload := t.payload,
    imaIndex := t.imaIndex, imaPred := t.imaPred, ws8Pred := t.ws8Pred, freeCount := t.freeCount }

/-- `t` is what `raise OpenFail(e)` leaves of `s` (R207): nothing said of the header registers and of the
decoder state, which hold no value. -/
structure OpenFailedWith (e : ErrorCode) (s t : State) : Prop where
  err : t.err = e
  state : t.state = .openFail
  /-- Everything else is as before. -/
  frame : t = { s with
    err := t.err, state := t.state, fhFreq := t.fhFreq, fhDataSize := t.fhDataSize, fhOutSize := t.fhOutSize,
    fhFlags := t.fhFlags, fhCtype := t.fhCtype,
    imaIndex := t.imaIndex, imaPred := t.imaPred, ws8Pred := t.ws8Pred, freeCount := t.freeCount }

end Sys2Proof.Machine

/-! ## The decoders on integers -/

namespace Sys2Proof.Reference

open Sys2Proof.Machine

/-- `clamp` (R10). -/
def clampInt (v lo hi : Int) : Int := if v < lo then lo else if hi < v then hi else v

/-- `IMA_DIFF` (R122), by division: `x >> k` is the floor of `x / 2^k` (R10). -/
def diff (step code : Nat) : Nat :=
  step / 8 + (if code / 4 % 2 = 1 then step else 0) + (if code / 2 % 2 = 1 then step / 2 else 0)
    + (if code % 2 = 1 then step / 4 else 0)

/-- `P_IMA_STEP[i]`, for `i` in 0..88. -/
def stepSize (cfg : Params) (i : Nat) : Nat := ((cfg.imaStep.toList[i]?).map Fin.val).getD 0

/-- `P_IMA_INDEX[code]`. -/
def adjustment (cfg : Params) (code : Nat) : Int := (cfg.imaIndex.toList[code]?).getD 0

/-- `P_WS8_DELTA[code]`. -/
def delta (cfg : Params) (code : Nat) : Int := (cfg.ws8Delta.toList[code]?).getD 0

/-- One IMA4 code from an index and a predictor (R123). -/
def imaStep (cfg : Params) (st : Nat × Int) (code : Nat) : Nat × Int :=
  ((clampInt (st.1 + adjustment cfg code) 0 88).toNat,
   clampInt (if code / 8 % 2 = 1 then st.2 - diff (stepSize cfg st.1) code
     else st.2 + diff (stepSize cfg st.1) code) (-32768) 32767)

/-- The samples that a list of codes decodes to, and the state it leaves (R123, R124). -/
def imaRun (cfg : Params) : Nat × Int → List Nat → List Int × (Nat × Int)
  | st, [] => ([], st)
  | st, c :: cs =>
    ((imaStep cfg st c).2 :: (imaRun cfg (imaStep cfg st c) cs).1, (imaRun cfg (imaStep cfg st c) cs).2)

/-- The codes of IMA4 payload bytes, low nibble first (R59, R75). -/
def imaCodes (bs : List Byte) : List Nat := bs.flatMap fun b => [b.toNat % 16, b.toNat / 16]

/-- The two bytes of a sample, little-endian (R58), as numbers. -/
def leBytes (p : Int) : List Int := [p % 256, p / 256 % 256]

/-- The bytes that an IMA4 payload decodes to from a state, and the state it leaves. -/
def imaDecode (cfg : Params) (st : Nat × Int) (bs : List Byte) : List Int × (Nat × Int) :=
  (((imaRun cfg st (imaCodes bs)).1).flatMap leBytes, (imaRun cfg st (imaCodes bs)).2)

/-- One WS8 delta code (R143). -/
def ws8Step (cfg : Params) (p : Int) (code : Nat) : Int := clampInt (p + delta cfg code) 0 255

/-- The bytes that WS8 command bytes decode to, however many they are, and the predictor they leave
(R141 to R143). -/
def ws8Decode (cfg : Params) : Int → List Byte → List Int × Int
  | p, [] => ([], p)
  | p, b :: bs =>
    if 128 ≤ b.toNat then
      (List.replicate (b.toNat - 128) p ++ (ws8Decode cfg p bs).1, (ws8Decode cfg p bs).2)
    else
      let p1 := ws8Step cfg p (b.toNat / 16)
      let p2 := ws8Step cfg p1 (b.toNat % 16)
      (p1 :: p2 :: (ws8Decode cfg p2 bs).1, (ws8Decode cfg p2 bs).2)

/-- How many bytes WS8 command bytes decode to (R142, R143): the count of a RUN, two of a DELTA. -/
def ws8Size : List Byte → Nat
  | [] => 0
  | b :: bs => (if 128 ≤ b.toNat then b.toNat - 128 else 2) + ws8Size bs

/-- Bytes as numbers. -/
def values (bs : List Byte) : List Int := bs.map fun b => (b.toNat : Int)

end Sys2Proof.Reference
end

