-- ==== Sys2Proof/Certificates/Slice0/Obligations.lean ====
section
/-! DEFINITION. The statements about the block, for the provers. Each docstring names the rules of spec/
it rests on. A frame is written `t = { s with f := t.f, … }`: every field of the state that is not listed
is as it was. -/

open Sys2Proof Sys2Proof.Machine

/-! ## Encodings -/

/-- R70, R71, R74, R75, R76: a few words written out from the formats (95_test_vectors.md V1, V4, V27;
R141's examples). -/
def Obligations.SampleWordsDecode : Prop :=
  decode .fileHeader [0x11, 0x2B, 0x10, 0, 0, 0, 0x20, 0, 0, 0, 0x02, 0x01] = .op (.fhdr 11025 16 32 2 1) [] ∧
  decode .chunkHeader [0x10, 0, 0x40, 0, 0xAF, 0xDE, 0, 0] = .op (.chdr 16 64 0x0000DEAF) [] ∧
  decode .codecSelect [0x63] = .op .selIma4 [] ∧
  decode .ima4Byte [0x97] = .op (.ima4Byte 7 9) [] ∧
  decode .ws8Command [0x83] = .op (.ws8Run 3) [] ∧
  decode .ws8Command [0x23] = .op (.ws8Delta 2 3) []

/-- R70 to R77: decoding the encoding of any well-formed operation gives it back, with what follows it;
nothing follows an operation that the end of the source makes. -/
def Obligations.DecodeOfEncodeIsTheOperation : Prop :=
  ∀ (i : Instr) (u : InputUnit) (bs rest : List Byte),
    i.wellFormed = true → encode i = some (u, bs) → (i.endsSource = true → rest = []) →
    decode u (bs ++ rest) = .op i rest

/-- R70 to R77: the other direction. What the decoder reads is well-formed and encodes to exactly the bytes
it was read from, so no two inputs of one unit decode alike. (A payload is read as one of the length that
came, R164.) -/
def Obligations.EncodeOfDecodeIsTheBytes : Prop :=
  ∀ (u : InputUnit) (bs : List Byte) (i : Instr) (rest : List Byte),
    (∀ n, u = .payload n → n ≤ 65535) → decode u bs = .op i rest →
    i.wellFormed = true ∧
    ∃ v w, encode i = some (v, w) ∧ w ++ rest = bs ∧
      (v = u ∨ ∃ n, u = .payload n ∧ v = .payload (min n bs.length))

/-- R11, R57, R70, R71: every multi-byte field of the two headers is little-endian and has its own bytes. -/
def Obligations.HeaderFieldsAreLittleEndian : Prop :=
  (∀ (h0 h1 h2 h3 h4 h5 h6 h7 h8 h9 h10 h11 : Byte) (rest : List Byte),
    ∃ freq dataSize outSize,
      decode .fileHeader (h0 :: h1 :: h2 :: h3 :: h4 :: h5 :: h6 :: h7 :: h8 :: h9 :: h10 :: h11 :: rest)
        = .op (.fhdr freq dataSize outSize h10 h11) rest ∧
      freq.toNat = h0.toNat + 256 * h1.toNat ∧
      dataSize.toNat = h2.toNat + 2 ^ 8 * h3.toNat + 2 ^ 16 * h4.toNat + 2 ^ 24 * h5.toNat ∧
      outSize.toNat = h6.toNat + 2 ^ 8 * h7.toNat + 2 ^ 16 * h8.toNat + 2 ^ 24 * h9.toNat) ∧
  (∀ (c0 c1 c2 c3 c4 c5 c6 c7 : Byte) (rest : List Byte),
    ∃ enc dec magic,
      decode .chunkHeader (c0 :: c1 :: c2 :: c3 :: c4 :: c5 :: c6 :: c7 :: rest)
        = .op (.chdr enc dec magic) rest ∧
      enc.toNat = c0.toNat + 256 * c1.toNat ∧
      dec.toNat = c2.toNat + 256 * c3.toNat ∧
      magic.toNat = c4.toNat + 2 ^ 8 * c5.toNat + 2 ^ 16 * c6.toNat + 2 ^ 24 * c7.toNat)

/-- R75, R76, R59, R77: the fields of an IMA4 byte and of a WS8 command byte, as numbers. -/
def Obligations.PayloadByteFields : Prop :=
  ∀ b : Byte,
    (∃ lo hi, decode .ima4Byte [b] = .op (.ima4Byte lo hi) [] ∧
      lo.toNat = b.toNat % 16 ∧ hi.toNat = b.toNat / 16) ∧
    (if 128 ≤ b.toNat then
      ∃ count, decode .ws8Command [b] = .op (.ws8Run count) [] ∧ count.toNat = b.toNat - 128
    else
      ∃ code1 code2, decode .ws8Command [b] = .op (.ws8Delta code1 code2) [] ∧
        code1.toNat = b.toNat / 16 ∧ code2.toNat = b.toNat % 16)

/-! ## Reset, and the invariant -/

/-- R230, R20: the values that the spec gives for reset; and every status read completes there, since every
register holds a value at reset (log 5, 6; no value is stated of the registers to which the spec gives
none). -/
def Obligations.ResetRegisters : Prop :=
  let s := State.reset
  s.state = .noStream ∧ s.err = .none ∧ s.chan = [] ∧ s.payload = [] ∧ s.outbuf = [] ∧ s.dlvPtr = 0 ∧
  s.sinkEnd = .isOpen ∧ s.failSeen = false ∧ s.cancelReq = false ∧ s.callerClosed = false ∧
  s.srcOff = 0 ∧ s.chunkCount = 0 ∧
  ∀ r, ∃ v, statusRead r s = .next { s with results := s.results ++ [.status r v] }

/-- R20, R230: the invariant of the registers holds at reset. -/
def Obligations.ResetMeetsTheInvariant : Prop := RegInv State.reset

/-- R20, R26, R33 to R36, R66, R127, R147, R206: every step, of either agent, with any draw, keeps the
invariant of the registers: backpressure, the buffers' bounds, what each phase finds, the relations
between `STATE`, `ERR`, `SINK_END`, `FAIL_SEEN`, `CANCEL_REQ` and `CALLER_CLOSED`, when a `READ` is suspended
(R175), and what the answers `END` and `ERROR` have shown (R175, R176). -/
def Obligations.StepKeepsTheInvariant : Prop :=
  ∀ s t : State, RegInv s → step s = .next t → RegInv t

/-- R230, R232, R21: the block's reset, from any state, leaves every register as `State.reset` has it; the
new session has the parameters and the source the host fixed. For the registers that R230 gives no value
(`PHASE`, `CLOSE_CAUSE`, `FH_*`, `CH_*` and the decoder state) that is the model's choice (log 5), and so is
what the reset keeps of the schedule (log 22). -/
def Obligations.BlockResetRestoresEveryRegister : Prop :=
  ∀ (s : State) cfg src ts, s.turns = .reset cfg src :: ts →
    ∃ t, step s = .next t ∧
      t = { State.reset with
        cfg := cfg, src := src, turns := ts, cmds := s.cmds, freeCount := s.freeCount,
        freeMover := s.freeMover, freeLeft := s.freeLeft }

/-! ## A step runs one operation -/

/-- R161, R163, R164, R165, R168, R178: the worker's move runs the operation that its phase and the bytes at
`SRC_OFF` give. -/
def Obligations.StepRunsTheWorkersOperation : Prop :=
  ∀ (s t : State) d ts i, s.turns = .worker d :: ts → t = { s with turns := ts, draw := d } →
    s.state = .running →
    (s.cancelReq = true ∧ i = .cancel ∨
     s.cancelReq = false ∧ s.phase = .chdr ∧
       (∃ rest, decode .chunkHeader ((s.src.drop s.srcOff).take 8) = .op i rest) ∨
     s.cancelReq = false ∧ s.phase = .payload ∧ i = .payload ((s.src.drop s.srcOff).take s.chEnc.toNat) ∨
     s.cancelReq = false ∧ s.phase = .decode ∧ i = .dispatch ∨
     s.cancelReq = false ∧ s.phase = .deliver ∧ ¬ deliverBlocked s ∧ i = .deliver) →
    step s = exec i t

/-- R14, R175, R183: the caller's move issues its next command; while it is suspended in a `READ` it tries
that `READ` again, or issues a command that may come beside it. Which of the two is the model's choice where
the spec leaves the interleaving free (log 1, 30): a command comes first where the `READ` would block, or
where the draw says so. -/
def Obligations.StepRunsTheCallersCommand : Prop :=
  ∀ (s : State) d ts, s.turns = .caller d :: ts →
    (∀ c cs, s.cmds = c :: cs →
      s.callerWait = none ∨
        (∃ n, s.callerWait = some n) ∧ c.besideRead = true ∧ (readBlocked s ∨ d.commandFirst = true) →
      (∀ i, HostCmd.instr? c = some i → step s = exec i { s with turns := ts, draw := d, cmds := cs }) ∧
      (∀ r, c = .status r → step s = statusRead r { s with turns := ts, draw := d, cmds := cs })) ∧
    (∀ n, s.callerWait = some n →
      (∀ c cs, s.cmds = c :: cs → c.besideRead = false ∨ ¬ readBlocked s ∧ d.commandFirst = false) →
      step s = exec (.readCmd n) { s with turns := ts, draw := d })

/-- R175, R170, R215: a `READ` in `Idle` "blocks until `START` and a delivery": `START` comes while the `READ` is
suspended, and the `READ` returns once a byte is buffered. (That the suspended `READ` stands in the state is
the model's choice, log 12, 30.) -/
def Obligations.SuspendedReadWaitsForStartAndADelivery : Prop :=
  ∀ (s : State) d ts n, s.turns = .caller d :: ts → s.callerWait = some n → s.callerClosed = false → 1 ≤ n →
    s.failSeen = false → s.sinkEnd = .isOpen →
    (∀ cs, s.state = .idle → s.chan = [] → s.cmds = .start :: cs →
      step s = .next { s with state := .running, phase := .chdr, turns := ts, draw := d, cmds := cs }) ∧
    (s.state = .running → s.chan = [] → s.cmds = [] → step s = .next { s with turns := ts, draw := d }) ∧
    (s.state = .running → s.chan ≠ [] → s.cmds = [] →
      ∃ k, 1 ≤ k ∧ k ≤ min n s.chan.length ∧
        step s = .next { s with
          chan := s.chan.drop k, results := s.results ++ [.bytes (s.chan.take k)], callerWait := none,
          turns := ts, draw := d })

/-- R161, R168, R55, R236: where the rule gives the worker no step (no stream runs, or `CHAN` is full in
`DELIVER`), its move changes nothing; and a caller that neither reads nor closes leaves the worker blocked in
`DELIVER` for ever, whatever the schedule: "a hang the block does not prevent". That such a move is a next
state is the model's choice (log 12). -/
def Obligations.WorkerWithoutAStepWaits : Prop :=
  (∀ (s : State) d ts, s.turns = .worker d :: ts →
    (s.state ≠ .running ∨
      s.cancelReq = false ∧ s.phase = .deliver ∧ s.dlvPtr.toNat < s.outbuf.length ∧
        s.cfg.chanCap ≤ s.chan.length) →
    step s = .next { s with turns := ts, draw := d }) ∧
  (∀ (s : State) (k : Nat), workerAt .deliver s → s.dlvPtr.toNat < s.outbuf.length →
    s.cfg.chanCap ≤ s.chan.length → s.callerWait = none → s.cmds = [] →
    (∀ cfg src, Turn.reset cfg src ∉ s.turns) →
    ∃ t, Host.Core.run Sys2Proof.core k s = .next t ∧
      t = { s with
        turns := t.turns, draw := t.draw, freeCount := t.freeCount, freeMover := t.freeMover,
        freeLeft := t.freeLeft })

/-- R18, R236: where the schedule lists no move, the next one is an agent's own, as if it were listed: the
agents move in stretches that alternate, of one move or more each. The draw and the length of a stretch are
free values (log 2). -/
def Obligations.UnlistedMoveIsAnAgentsOwn : Prop :=
  ∀ s : State, s.turns = [] →
    ∃ a d l,
      step s
        = step { s with
            turns := [Agent.turn a d], freeMover := a, freeLeft := l, freeCount := s.freeCount + 1 } ∧
      (s.freeLeft = 0 → a ≠ s.freeMover) ∧ (0 < s.freeLeft → a = s.freeMover ∧ l + 1 = s.freeLeft)

/-- R236: every run without an end is weakly fair, "an agent step that stays enabled is eventually taken": the
worker's step, the issue of the caller's next command, and the return of a suspended `READ`; indeed both
agents move again and again. How the model schedules the moves is its choice (log 1, 2). -/
def Obligations.EveryRunIsWeaklyFair : Prop :=
  ∀ r : Nat → State, InfiniteRun r →
    WeaklyFair r ∧ ∀ (a : Agent) n, ∃ m d t, n ≤ m ∧ takeTurn (r m) = (a.turn d, t)

/-! ## Header operations -/

/-- R100: `FHDR` writes the five header registers and consumes 12 bytes. -/
def Obligations.FileHeaderIsRecorded : Prop :=
  ∀ (s : State) freq dataSize outSize flags ctype, s.state = .noStream → s.draw.ioFault = false →
    exec (.fhdr freq dataSize outSize flags ctype) s
      = .next { s with
          fhFreq := freq, fhDataSize := dataSize, fhOutSize := outSize, fhFlags := flags, fhCtype := ctype,
          srcOff := s.srcOff + 12 }

/-- R100, R207: a short file header fails the open, with the bytes that came consumed. -/
def Obligations.ShortFileHeaderFailsTheOpen : Prop :=
  ∀ (s : State) h, s.state = .noStream → s.draw.ioFault = false →
    ∃ t, exec (.fhdrShort h) s = .next t ∧
      OpenFailedWith .malformedHeader { s with srcOff := s.srcOff + h.length } t

/-- R160, R100, R231, R57: `OPEN` with 12 bytes left and no fault: the header's fields as numbers, both
variants' decoder state initialised, `Idle`. -/
def Obligations.OpenReadsTheHeader : Prop :=
  ∀ (s : State) h0 h1 h2 h3 h4 h5 h6 h7 h8 h9 h10 h11 rest,
    s.state = .noStream → s.draw.ioFault = false →
    s.src.drop s.srcOff = h0 :: h1 :: h2 :: h3 :: h4 :: h5 :: h6 :: h7 :: h8 :: h9 :: h10 :: h11 :: rest →
    ∃ t, exec .openCmd s = .next t ∧
      t.state = .idle ∧ t.err = .none ∧
      t.fhFreq.toNat = h0.toNat + 256 * h1.toNat ∧
      t.fhDataSize.toNat = h2.toNat + 2 ^ 8 * h3.toNat + 2 ^ 16 * h4.toNat + 2 ^ 24 * h5.toNat ∧
      t.fhOutSize.toNat = h6.toNat + 2 ^ 8 * h7.toNat + 2 ^ 16 * h8.toNat + 2 ^ 24 * h9.toNat ∧
      t.fhFlags = h10 ∧ t.fhCtype = h11 ∧ t.srcOff = s.srcOff + 12 ∧
      t.imaIndex.val = 0 ∧ t.imaPred.toInt = 0 ∧ t.ws8Pred.toNat = 0x80 ∧
      t.chan = [] ∧ t.sinkEnd = .isOpen ∧ t.failSeen = false ∧ t.cancelReq = false ∧
      t.callerClosed = false ∧ t.chunkCount = 0 ∧
      t = { s with
        state := t.state, err := t.err, fhFreq := t.fhFreq, fhDataSize := t.fhDataSize,
        fhOutSize := t.fhOutSize, fhFlags := t.fhFlags, fhCtype := t.fhCtype, srcOff := t.srcOff,
        imaIndex := t.imaIndex, imaPred := t.imaPred, ws8Pred := t.ws8Pred, chan := t.chan,
        sinkEnd := t.sinkEnd, failSeen := t.failSeen, cancelReq := t.cancelReq,
        callerClosed := t.callerClosed, chunkCount := t.chunkCount }

/-- R100, R203, R207, R201: `OPEN` fails eagerly: an I/O fault first, whatever the source holds, and then a read
of `SRC_OFF` stops (I11); then fewer than 12 bytes. -/
def Obligations.OpenFailsEagerly : Prop :=
  ∀ s : State, s.state = .noStream →
    (s.draw.ioFault = true →
      ∃ t, exec .openCmd s = .next t ∧ OpenFailedWith .ioFailure { s with srcOff := t.srcOff } t ∧
        statusRead .srcOff t = .fault (.holdsNoValue .srcOff)) ∧
    (s.draw.ioFault = false → (s.src.drop s.srcOff).length < 12 →
      ∃ t, exec .openCmd s = .next t ∧
        OpenFailedWith .malformedHeader { s with srcOff := s.srcOff + (s.src.drop s.srcOff).length } t)

/-- R102, R163: a chunk header whose magic passes: the three registers, empty buffers, 8 bytes consumed. -/
def Obligations.ChunkHeaderIsRecorded : Prop :=
  ∀ (s : State) enc dec magic, workerAt .chdr s → s.draw.ioFault = false →
    (s.cfg.magicCheck = false ∨ magic = s.cfg.chunkMagic) →
    exec (.chdr enc dec magic) s
      = .next { s with
          outbuf := [], payload := [], dlvPtr := 0, chEnc := enc, chDec := dec, chMagic := magic,
          srcOff := s.srcOff + 8, phase := .payload }

/-- R102, R201, R206: a magic mismatch under `P_MAGIC_CHECK` is `BadMagic`; the header registers are
written and the 8 bytes consumed. -/
def Obligations.BadMagicFailsTheStream : Prop :=
  ∀ (s : State) enc dec magic, workerAt .chdr s → s.draw.ioFault = false →
    s.cfg.magicCheck = true → magic ≠ s.cfg.chunkMagic →
    ∃ t, exec (.chdr enc dec magic) s = .next t ∧
      FailedWith .badMagic
        { s with dlvPtr := 0, chEnc := enc, chDec := dec, chMagic := magic, srcOff := s.srcOff + 8 } t

/-- R103, R201, R206: 1 to 7 bytes of a chunk header are `MalformedHeader`, and are consumed. -/
def Obligations.ShortChunkHeaderFailsTheStream : Prop :=
  ∀ (s : State) c, workerAt .chdr s → s.draw.ioFault = false → 1 ≤ c.length → c.length < 8 →
    ∃ t, exec (.chdrShort c) s = .next t ∧
      FailedWith .malformedHeader { s with dlvPtr := 0, srcOff := s.srcOff + c.length } t

/-- R104, R105, R73, R37, R183: what the caller gets from `BITRATE` and `CHANNELS` depends on bit 1 and on bit 0
of `FH_FLAGS` alone, in every state, and nothing else changes. (Before `OPEN` the register's value is the
model's, log 5; after `OpenFail` it is a free value, log 7.) -/
def Obligations.StatusFunctionsOfTheFlags : Prop :=
  ∀ s : State,
    exec .bitrate s
      = .next { s with results := s.results ++ [.bitrate (if s.fhFlags.toNat / 2 % 2 = 1 then 16 else 8)] } ∧
    exec .channels s
      = .next { s with results := s.results ++ [.channels (if s.fhFlags.toNat % 2 = 1 then 2 else 1)] }

/-- R183, R37, R21, R200, R24, R32: a status read answers the register's current value, `STATE` and `ERR` by the
codes of their tables, and changes nothing but what the caller holds; only `SRC_OFF` after an `IOFailure` at
a source read stops (R201, I11). The numbers of `CLOSE_CAUSE` are the model's (log 23), and so is that a
register which nothing has written answers the value it holds (log 5, 6). -/
def Obligations.StatusReadsAnswerTheRegister : Prop :=
  ∀ s : State,
    answers .state ([StreamState.noStream, .idle, .running, .closed, .failed, .openFail].idxOf s.state) s ∧
    answers .err
      ([ErrorCode.none, .malformedHeader, .unsupportedCodec, .truncatedChunk, .ioFailure, .sizeMismatch,
        .badMagic].idxOf s.err) s ∧
    answers .closeCause (if s.closeCause = .normal then 0 else 1) s ∧
    answers .fhFreq s.fhFreq.toNat s ∧ answers .fhDataSize s.fhDataSize.toNat s ∧
    answers .fhOutSize s.fhOutSize.toNat s ∧ answers .fhFlags s.fhFlags.toNat s ∧
    answers .fhCtype s.fhCtype.toNat s ∧ answers .chunkCount s.chunkCount s ∧
    (if s.err = .ioFailure ∧ (s.state = .openFail ∨ s.state = .failed ∧ s.phase ≠ .deliver) then
      statusRead .srcOff s = .fault (.holdsNoValue .srcOff)
    else answers .srcOff s.srcOff s)

/-! ## IMA4 -/

/-- R122: `IMA_DIFF` is the sum of separately truncated parts, and lies in 0..61436. -/
def Obligations.ImaDiffIsTheTruncatedSum : Prop :=
  ∀ (step : Nat) (code : BitVec 4), step ≤ 32767 →
    imaDiff step code = Reference.diff step code.toNat ∧ imaDiff step code ≤ 61436

/-- R123, R126, R58: one code, on the integers: the step size is read with the old index, both results are
saturated and never wrap, and the new predictor is emitted low byte first. -/
def Obligations.ImaCodeStep : Prop :=
  ∀ (s : State) code, codecAt 99 s →
    ∃ t, exec (.ima4Nib code) s = .next t ∧
      (t.imaIndex.val, t.imaPred.toInt)
        = Reference.imaStep s.cfg (s.imaIndex.val, s.imaPred.toInt) code.toNat ∧
      Reference.values t.outbuf = Reference.values s.outbuf ++ Reference.leBytes t.imaPred.toInt ∧
      t = { s with imaIndex := t.imaIndex, imaPred := t.imaPred, outbuf := t.outbuf }

/-- R124: a byte is its low code and then its high code, each in the state the one before it left. -/
def Obligations.ImaByteIsTwoCodes : Prop :=
  ∀ (s : State) lo hi, codecAt 99 s →
    ∃ m t, exec (.ima4Nib lo) s = .next m ∧ exec (.ima4Nib hi) m = .next t ∧
      exec (.ima4Byte lo hi) s = .next t

/-- R125, R165, R127: the decode of an IMA4 chunk gives exactly the bytes of the integer decoder, and leaves
its state. `DISPATCH` and `SEL_IMA4` then enter delivery. -/
def Obligations.ImaChunkRefinesTheIntegerDecoder : Prop :=
  ∀ (s : State) r, codecAt 99 s → s.outbuf = [] → s.payload.length = s.chEnc.toNat →
    s.chDec.toNat = 4 * s.chEnc.toNat →
    r = Reference.imaDecode s.cfg (s.imaIndex.val, s.imaPred.toInt) s.payload →
    ∃ t, exec .ima4Chunk s = .next t ∧
      Reference.values t.outbuf = r.1 ∧ t.outbuf.length = s.chDec.toNat ∧
      (t.imaIndex.val, t.imaPred.toInt) = r.2 ∧
      t = { s with imaIndex := t.imaIndex, imaPred := t.imaPred, outbuf := t.outbuf } ∧
      exec .dispatch s = .next { t with dlvPtr := 0, phase := .deliver } ∧
      exec .selIma4 s = .next { t with dlvPtr := 0, phase := .deliver }

/-- R125, R206: an IMA4 chunk whose sizes do not agree takes the failure entry. -/
def Obligations.ImaSizeMismatchFailsTheStream : Prop :=
  ∀ (s : State) i, codecAt 99 s → s.chDec.toNat ≠ 4 * s.chEnc.toNat → i ∈ [Instr.ima4Chunk, .selIma4, .dispatch] →
    ∃ t, exec i s = .next t ∧ FailedWith .sizeMismatch s t

/-! ## WS8 -/

/-- R144, R206: `WS8.EMIT` appends while there is room, and fails the stream at the first byte beyond
`CH_DEC`. -/
def Obligations.Ws8EmitIsChecked : Prop :=
  ∀ (s : State) v, codecAt 1 s →
    (s.outbuf.length ≠ s.chDec.toNat → exec (.ws8Emit v) s = .next { s with outbuf := s.outbuf ++ [v] }) ∧
    (s.outbuf.length = s.chDec.toNat → ∃ t, exec (.ws8Emit v) s = .next t ∧ FailedWith .sizeMismatch s t)

/-- R142, R144, R147: a RUN that fits repeats the predictor and leaves it; one that does not fails the
stream. -/
def Obligations.Ws8RunRepeatsThePredictor : Prop :=
  ∀ (s : State) count, codecAt 1 s → s.outbuf.length ≤ s.chDec.toNat →
    (s.outbuf.length + count.toNat ≤ s.chDec.toNat →
      exec (.ws8Run count) s
        = .next { s with outbuf := s.outbuf ++ List.replicate count.toNat s.ws8Pred }) ∧
    (s.chDec.toNat < s.outbuf.length + count.toNat →
      ∃ t, exec (.ws8Run count) s = .next t ∧ FailedWith .sizeMismatch s t)

/-- R143, R144, R146: the two codes of a DELTA on the integers, the second on the predictor already clamped;
a DELTA that does not fit fails the stream. -/
def Obligations.Ws8DeltaAddsTwoCodes : Prop :=
  ∀ (s : State) code1 code2 p1 p2, codecAt 1 s → s.outbuf.length ≤ s.chDec.toNat →
    p1 = Reference.ws8Step s.cfg s.ws8Pred.toNat code1.toNat →
    p2 = Reference.ws8Step s.cfg p1 code2.toNat →
    (s.outbuf.length + 2 ≤ s.chDec.toNat →
      ∃ t, exec (.ws8Delta code1 code2) s = .next t ∧ (t.ws8Pred.toNat : Int) = p2 ∧
        Reference.values t.outbuf = Reference.values s.outbuf ++ [p1, p2] ∧
        t = { s with ws8Pred := t.ws8Pred, outbuf := t.outbuf }) ∧
    (s.chDec.toNat < s.outbuf.length + 2 →
      ∃ t, exec (.ws8Delta code1 code2) s = .next t ∧ FailedWith .sizeMismatch s t)

/-- R141, R76: a command byte does what the operation of its class does, and a byte whose output fits
completes. -/
def Obligations.Ws8ByteRunsItsClass : Prop :=
  ∀ (s : State) b r, codecAt 1 s → r = Reference.ws8Decode s.cfg s.ws8Pred.toNat [b] →
    exec (.ws8Byte b) s = exec (decodeWs8 b) s ∧
    (s.outbuf.length + r.1.length ≤ s.chDec.toNat →
      ∃ t, exec (.ws8Byte b) s = .next t ∧ (t.ws8Pred.toNat : Int) = r.2 ∧
        Reference.values t.outbuf = Reference.values s.outbuf ++ r.1 ∧
        t = { s with ws8Pred := t.ws8Pred, outbuf := t.outbuf })

/-- R145, R165, R147: where the payload's commands give exactly `CH_DEC` bytes, the decode of a WS8 chunk
gives those of the integer decoder and leaves its predictor. `DISPATCH` and `SEL_WS8` then enter
delivery. -/
def Obligations.Ws8ChunkRefinesTheIntegerDecoder : Prop :=
  ∀ (s : State) r, codecAt 1 s → s.outbuf = [] → s.payload.length = s.chEnc.toNat →
    r = Reference.ws8Decode s.cfg s.ws8Pred.toNat s.payload → r.1.length = s.chDec.toNat →
    ∃ t, exec .ws8Chunk s = .next t ∧
      Reference.values t.outbuf = r.1 ∧ (t.ws8Pred.toNat : Int) = r.2 ∧
      t = { s with ws8Pred := t.ws8Pred, outbuf := t.outbuf } ∧
      exec .dispatch s = .next { t with dlvPtr := 0, phase := .deliver } ∧
      exec .selWs8 s = .next { t with dlvPtr := 0, phase := .deliver }

/-- R144, R145, R206: a WS8 chunk whose commands give more or fewer than `CH_DEC` bytes fails. -/
def Obligations.Ws8SizeMismatchFailsTheStream : Prop :=
  ∀ (s : State) i, codecAt 1 s → s.outbuf = [] → s.payload.length = s.chEnc.toNat →
    (Reference.ws8Decode s.cfg s.ws8Pred.toNat s.payload).1.length ≠ s.chDec.toNat →
    i ∈ [Instr.ws8Chunk, .selWs8, .dispatch] →
    ∃ t, exec i s = .next t ∧ FailedWith .sizeMismatch s t

/-! ## The sequencer -/

/-- R51, R203, R206: an I/O fault drawn at the worker's source read is taken before any other check, at a payload
read of no byte too (the model's choice, log 31); `SRC_OFF` then holds no value, and a read of it stops
(R201, I11). -/
def Obligations.SourceFaultFailsTheStream : Prop :=
  ∀ s : State, s.draw.ioFault = true →
    (workerAt .chdr s → ∀ enc dec magic c i, i ∈ [Instr.chdr enc dec magic, .chdrShort c, .eos] →
      ∃ t, exec i s = .next t ∧ FailedWith .ioFailure { s with dlvPtr := 0, srcOff := t.srcOff } t ∧
        statusRead .srcOff t = .fault (.holdsNoValue .srcOff)) ∧
    (workerAt .payload s → ∀ p : List Byte, p.length ≤ s.chEnc.toNat →
      ∃ t, exec (.payload p) s = .next t ∧ FailedWith .ioFailure { s with srcOff := t.srcOff } t ∧
        statusRead .srcOff t = .fault (.holdsNoValue .srcOff))

/-- R162, R31: no byte where a chunk header is expected closes the stream normally: no error, and what is in
`CHAN` stays. -/
def Obligations.EndOfSourceClosesTheStream : Prop :=
  ∀ s : State, workerAt .chdr s → s.draw.ioFault = false →
    ∃ t, exec .eos s = .next t ∧ t.state = .closed ∧ t.closeCause = .normal ∧ t.sinkEnd = .eof ∧
      t.outbuf = [] ∧ t.payload = [] ∧ t.dlvPtr = 0 ∧
      t = { s with
        state := t.state, closeCause := t.closeCause, sinkEnd := t.sinkEnd, outbuf := t.outbuf,
        payload := t.payload, dlvPtr := t.dlvPtr, imaIndex := t.imaIndex, imaPred := t.imaPred,
        ws8Pred := t.ws8Pred, freeCount := t.freeCount }

/-- R164, R206: the payload read, whole and short. -/
def Obligations.PayloadIsReadWhole : Prop :=
  ∀ (s : State) p, workerAt .payload s → s.draw.ioFault = false →
    (p.length = s.chEnc.toNat →
      exec (.payload p) s = .next { s with payload := p, phase := .decode, srcOff := s.srcOff + p.length }) ∧
    (p.length < s.chEnc.toNat →
      ∃ t, exec (.payload p) s = .next t ∧
        FailedWith .truncatedChunk { s with srcOff := s.srcOff + p.length } t)

/-- R165, R74: the dispatch is the arm that `FH_CTYPE` selects. -/
def Obligations.DispatchRunsTheSelectedArm : Prop :=
  ∀ s : State, workerAt .decode s → exec .dispatch s = exec (decodeCodec s.fhCtype) s

/-- R165, R206: any type but 1 and 99 fails the chunk, with no byte delivered. -/
def Obligations.UnsupportedCodecFailsTheStream : Prop :=
  ∀ (s : State) ctype i, codecAt ctype s → ctype ≠ 1 → ctype ≠ 99 → i ∈ [Instr.selUnsupported ctype, .dispatch] →
    ∃ t, exec i s = .next t ∧ FailedWith .unsupportedCodec s t

/-- R168, R55, R169: `DELIVER` with a byte left and room: the byte at `DLV_PTR` enters `CHAN` at its tail, and
the last byte ends the chunk. -/
def Obligations.DeliverPushesTheNextByte : Prop :=
  ∀ (s : State) b, workerAt .deliver s → s.outbuf.length ≤ 65535 → s.outbuf[s.dlvPtr.toNat]? = some b →
    s.chan.length < s.cfg.chanCap → s.callerClosed = false → s.draw.ioFault = false →
    ∃ t, exec .deliver s = .next t ∧ t.chan = s.chan ++ [b] ∧ t.dlvPtr.toNat = s.dlvPtr.toNat + 1 ∧
      (if s.dlvPtr.toNat + 1 = s.outbuf.length then t.phase = .chdr ∧ t.chunkCount = s.chunkCount + 1
        else t.phase = .deliver ∧ t.chunkCount = s.chunkCount) ∧
      t = { s with chan := t.chan, dlvPtr := t.dlvPtr, phase := t.phase, chunkCount := t.chunkCount }

/-- R168, R55, R206: the other cases of `DELIVER`: nothing left ends the chunk; a sink fault fails the stream and
pushes nothing. With no room R168 gives the worker no step; that `DELIVER` then answers a next state, the
state unchanged, is the model's choice (log 12). -/
def Obligations.DeliverWithoutAPush : Prop :=
  ∀ s : State, workerAt .deliver s →
    (s.dlvPtr.toNat = s.outbuf.length →
      exec .deliver s = .next { s with chunkCount := s.chunkCount + 1, phase := .chdr }) ∧
    (s.dlvPtr.toNat < s.outbuf.length → s.cfg.chanCap ≤ s.chan.length → exec .deliver s = .next s) ∧
    (s.dlvPtr.toNat < s.outbuf.length → s.chan.length < s.cfg.chanCap → s.callerClosed = false →
      s.draw.ioFault = true → ∃ t, exec .deliver s = .next t ∧ FailedWith .ioFailure s t)

/-- R178, R203, R204: the cancel step, whatever the phase and the draw: `Closed` by cancellation, `ERR` and
`CHAN` as they were. -/
def Obligations.CancelEndsTheStream : Prop :=
  ∀ s : State, s.state = .running → s.cancelReq = true →
    ∃ t, exec .cancel s = .next t ∧ t.state = .closed ∧ t.closeCause = .cancelled ∧
      t = { s with
        state := t.state, closeCause := t.closeCause, outbuf := t.outbuf, payload := t.payload,
        imaIndex := t.imaIndex, imaPred := t.imaPred, ws8Pred := t.ws8Pred, freeCount := t.freeCount }

/-! ## Host commands -/

/-- R184, with the preconditions of R160, R170, R175 and R177: exactly when a host command is refused. That a
refused command ends the run by a refusal is the model's reading (log 29). -/
def Obligations.CommandsRefusedExactly : Prop :=
  ∀ (s : State) n,
    (exec .openCmd s = .refused .openRefused ↔ s.state ≠ .noStream) ∧
    (exec .startCmd s = .refused .startRefused ↔ s.state ≠ .idle ∨ s.callerClosed = true) ∧
    (exec (.readCmd n) s = .refused .readRefused ↔
      s.state = .noStream ∨ s.state = .openFail ∨ s.callerClosed = true ∨ n = 0) ∧
    (∀ r, exec .closeCmd s ≠ .refused r)

/-- R170: `START` in `Idle` gives the worker its first step. -/
def Obligations.StartRunsTheWorker : Prop :=
  ∀ s : State, s.state = .idle → s.callerClosed = false →
    exec .startCmd s = .next { s with state := .running, phase := .chdr }

/-- R175, R56, R64: with bytes buffered and no failure, `READ(n)` returns between 1 and `n` bytes from the
head of `CHAN`, and every count of the range is one that some draw gives (log 9). -/
def Obligations.ReadReturnsBufferedBytes : Prop :=
  ∀ (s : State) n, s.state ≠ .noStream → s.state ≠ .openFail → s.callerClosed = false → 1 ≤ n →
    s.failSeen = false → s.sinkEnd ≠ .abnormal → s.chan ≠ [] →
    (∃ k, 1 ≤ k ∧ k ≤ min n s.chan.length ∧
      exec (.readCmd n) s
        = .next { s with
            chan := s.chan.drop k, results := s.results ++ [.bytes (s.chan.take k)], callerWait := none }) ∧
    ∀ k, 1 ≤ k → k ≤ min n s.chan.length →
      ∃ d t, exec (.readCmd n) { s with draw := d } = .next t ∧
        t.results = s.results ++ [.bytes (s.chan.take k)] ∧ t.chan = s.chan.drop k

/-- R175: a `READ` on an empty `CHAN` returns `END` after a normal close. With the sink open it blocks; that a
blocked `READ` is a next state in which `callerWait` holds its `n` is the model's choice (log 12), since the
spec has no step there. -/
def Obligations.ReadOfAnEmptyChannel : Prop :=
  ∀ (s : State) n, s.state ≠ .noStream → s.state ≠ .openFail → s.callerClosed = false → 1 ≤ n →
    s.failSeen = false → s.chan = [] →
    (s.sinkEnd = .eof →
      exec (.readCmd n) s
        = .next { s with results := s.results ++ [.endOfStream], callerWait := none }) ∧
    (s.sinkEnd = .isOpen → exec (.readCmd n) s = .next { s with callerWait := some n })

/-- R175: after an abnormal close a `READ` returns some of the buffered bytes or the error, as the draw says,
and the error where no byte is buffered. -/
def Obligations.ReadAfterAnAbnormalClose : Prop :=
  ∀ (s : State) n, s.state ≠ .noStream → s.state ≠ .openFail → s.callerClosed = false → 1 ≤ n →
    s.failSeen = false → s.sinkEnd = .abnormal →
    ∃ t, exec (.readCmd n) s = .next t ∧ t.callerWait = none ∧
      (if s.chan = [] ∨ s.draw.readError = true then
        t.failSeen = true ∧ t.chan = [] ∧ t.results = s.results ++ [.error s.err]
      else
        t.failSeen = false ∧ ∃ k, 1 ≤ k ∧ k ≤ min n s.chan.length ∧
          t.chan = s.chan.drop k ∧ t.results = s.results ++ [.bytes (s.chan.take k)]) ∧
      t = { s with failSeen := t.failSeen, chan := t.chan, results := t.results, callerWait := none }

/-- R176: once a `READ` has returned `ERROR`, every later `READ` returns the same error and no byte: the
answer, and that every step but the block's reset keeps `FAIL_SEEN` and `ERR`. -/
def Obligations.FailureIsSticky : Prop :=
  (∀ (s : State) n, s.failSeen = true → s.state ≠ .noStream → s.state ≠ .openFail → s.callerClosed = false → 1 ≤ n →
    exec (.readCmd n) s = .next { s with results := s.results ++ [.error s.err], callerWait := none }) ∧
  (∀ (s t : State) n, exec (.readCmd n) s = .next t → (∃ e, t.results = s.results ++ [.error e]) → t.failSeen = true) ∧
  (∀ s t : State, RegInv s → s.failSeen = true → (∀ cfg src ts, s.turns ≠ .reset cfg src :: ts) →
    step s = .next t → t.failSeen = true ∧ t.err = s.err)

/-- R177, R31: the first `CLOSE` of an open stream, by the state it finds; `CLOSE` is always admitted and
idempotent, and without a stream it has no effect. That a suspended `READ` is given up is
the model's choice (log 30). -/
def Obligations.CloseByState : Prop :=
  (∀ s : State, s.callerClosed = false →
    (s.state = .running →
      exec .closeCmd s
        = .next { s with callerClosed := true, chan := [], cancelReq := true, callerWait := none }) ∧
    (s.state = .closed ∨ s.state = .failed →
      exec .closeCmd s = .next { s with callerClosed := true, chan := [], callerWait := none }) ∧
    (s.state = .idle →
      ∃ t, exec .closeCmd s = .next t ∧ t.state = .closed ∧ t.closeCause = .cancelled ∧
        t = { s with
          callerClosed := true, chan := [], callerWait := none, state := t.state, closeCause := t.closeCause,
          imaIndex := t.imaIndex, imaPred := t.imaPred, ws8Pred := t.ws8Pred, freeCount := t.freeCount })) ∧
  ∀ s : State, (s.state = .noStream ∨ s.state = .openFail → exec .closeCmd s = .next s) ∧
    ∃ t, exec .closeCmd s = .next t ∧ exec .closeCmd t = .next t

/-! ## Whole-machine rules -/

/-- R21, R208: a terminal state is left only by the block's reset, and keeps `ERR` and `CLOSE_CAUSE`. -/
def Obligations.TerminalStatesAreLeftOnlyByReset : Prop :=
  ∀ s t : State, (s.state = .closed ∨ s.state = .failed ∨ s.state = .openFail) →
    (∀ cfg src ts, s.turns ≠ .reset cfg src :: ts) → step s = .next t →
    t.state = s.state ∧ t.err = s.err ∧ t.closeCause = s.closeCause

/-- R24, R65: after `OPEN` no agent writes the file-header registers, and no step but the block's reset
changes the parameters or the source (R232). -/
def Obligations.HeaderRegistersAreImmutable : Prop :=
  ∀ s t : State, (∀ cfg src ts, s.turns ≠ .reset cfg src :: ts) → step s = .next t →
    t.cfg = s.cfg ∧ t.src = s.src ∧
    (s.state ≠ .noStream →
      t.fhFreq = s.fhFreq ∧ t.fhDataSize = s.fhDataSize ∧ t.fhOutSize = s.fhOutSize ∧
        t.fhFlags = s.fhFlags ∧ t.fhCtype = s.fhCtype)

/-- R30, R29: while the stream runs, only the variant that `FH_CTYPE` selects has its decoder state
written, and only by the decode of a chunk. -/
def Obligations.OnlyTheSelectedDecoderStateIsWritten : Prop :=
  ∀ s t : State, step s = .next t → s.state = .running → t.state = .running →
    (s.fhCtype ≠ 99 → t.imaIndex = s.imaIndex ∧ t.imaPred = s.imaPred) ∧
    (s.fhCtype ≠ 1 → t.ws8Pred = s.ws8Pred) ∧
    (s.phase ≠ .decode → t.imaIndex = s.imaIndex ∧ t.imaPred = s.imaPred ∧ t.ws8Pred = s.ws8Pred)

/-- R23, R52: `SRC_OFF` never decreases in a session, unless it holds no value after an I/O fault. -/
def Obligations.SourceOffsetNeverDecreases : Prop :=
  ∀ s t : State, (∀ cfg src ts, s.turns ≠ .reset cfg src :: ts) → step s = .next t →
    s.srcOff ≤ t.srcOff ∨ srcOffLost t

/-- R64, R55, R56, R167: the FIFO law. A step that drops nothing (no close, no surfaced failure, no reset)
moves bytes from the head of `CHAN` to the caller and adds at its tail at most the byte of `OUTBUF` at
`DLV_PTR`, in `DELIVER`: no loss, no duplication, no reordering. -/
def Obligations.ChannelIsAFifo : Prop :=
  ∀ s t : State, RegInv s → (∀ cfg src ts, s.turns ≠ .reset cfg src :: ts) → step s = .next t →
    t.callerClosed = s.callerClosed → t.failSeen = s.failSeen →
    received t ++ t.chan = received s ++ s.chan ∨
    ∃ b, s.state = .running ∧ s.phase = .deliver ∧ s.outbuf[s.dlvPtr.toNat]? = some b ∧
      t.dlvPtr.toNat = s.dlvPtr.toNat + 1 ∧ t.chan = s.chan ++ [b] ∧ received t = received s

/-- R181, R182, R102, R164, R165, R168: one well-formed IMA4 chunk, with no fault, the caller still and room
in `CHAN`: in as many moves of the worker as it has reads, decode and bytes, the loop is back at `CHDR`, and
`CHAN` has gained exactly the bytes of the integer decoder. The schedule is fixed: the worker's turns are the
next ones (log 1). -/
def Obligations.ImaChunkPassesThroughTheLoop : Prop :=
  ∀ (s : State) (enc dec : BitVec 16) (p rest : List Byte) (ts : List Turn) (k : Nat),
    workerAt .chdr s → s.callerClosed = false → s.fhCtype = 99 →
    p.length = enc.toNat → dec.toNat = 4 * enc.toNat →
    s.src.drop s.srcOff = bytes16 enc ++ bytes16 dec ++ bytes32 s.cfg.chunkMagic ++ p ++ rest →
    s.chan.length + dec.toNat ≤ s.cfg.chanCap →
    k = 3 + max 1 dec.toNat →
    s.turns = List.replicate k (.worker quietDraw) ++ ts →
    ∃ t, Host.Core.run Sys2Proof.core k s = .next t ∧
      workerAt .chdr t ∧ t.turns = ts ∧ t.srcOff = s.srcOff + 8 + enc.toNat ∧
      t.chunkCount = s.chunkCount + 1 ∧
      Reference.values t.chan
        = Reference.values s.chan
          ++ (Reference.imaDecode s.cfg (s.imaIndex.val, s.imaPred.toInt) p).1 ∧
      (t.imaIndex.val, t.imaPred.toInt)
        = (Reference.imaDecode s.cfg (s.imaIndex.val, s.imaPred.toInt) p).2

/-- R181, R182, R127, R162: a container of IMA4 chunks, however the payload is split into them, with no
fault, the caller still and room in `CHAN`: the worker reaches `Closed` normally when the source ends, and
`CHAN` has gained the bytes that the integer decoder gives for the payloads joined, the decoder state carried
from chunk to chunk; `ERR` is as before. The schedule is fixed: the worker's turns are the next ones
(log 1). -/
def Obligations.ImaContainerDecodesToItsBytes : Prop :=
  ∀ (s : State) (chunks : List (List Byte)) (k : Nat),
    workerAt .chdr s → s.callerClosed = false → s.fhCtype = 99 → (∀ p ∈ chunks, p.length ≤ 16383) →
    s.src.drop s.srcOff = (chunks.map fun p =>
      bytes16 (BitVec.ofNat 16 p.length) ++ bytes16 (BitVec.ofNat 16 (4 * p.length))
        ++ bytes32 s.cfg.chunkMagic ++ p).flatten →
    s.chan.length + 4 * chunks.flatten.length ≤ s.cfg.chanCap →
    k = (chunks.map fun p => 3 + max 1 (4 * p.length)).sum + 1 →
    s.turns = List.replicate k (.worker quietDraw) →
    ∃ t, Host.Core.run Sys2Proof.core k s = .next t ∧
      t.state = .closed ∧ t.closeCause = .normal ∧ t.err = s.err ∧ t.sinkEnd = .eof ∧
      t.chunkCount = s.chunkCount + chunks.length ∧
      Reference.values t.chan
        = Reference.values s.chan
          ++ (Reference.imaDecode s.cfg (s.imaIndex.val, s.imaPred.toInt) chunks.flatten).1

/-- R181, R182, R102, R164, R165, R168, R142, R143: the same for one well-formed WS8 chunk, whose `decodedSize` is
what its commands give, with whatever delta table. The schedule is fixed (log 1). -/
def Obligations.Ws8ChunkPassesThroughTheLoop : Prop :=
  ∀ (s : State) (enc dec : BitVec 16) (p rest : List Byte) (ts : List Turn) (k : Nat),
    workerAt .chdr s → s.callerClosed = false → s.fhCtype = 1 →
    p.length = enc.toNat → dec.toNat = Reference.ws8Size p →
    s.src.drop s.srcOff = bytes16 enc ++ bytes16 dec ++ bytes32 s.cfg.chunkMagic ++ p ++ rest →
    s.chan.length + dec.toNat ≤ s.cfg.chanCap →
    k = 3 + max 1 dec.toNat →
    s.turns = List.replicate k (.worker quietDraw) ++ ts →
    ∃ t, Host.Core.run Sys2Proof.core k s = .next t ∧
      workerAt .chdr t ∧ t.turns = ts ∧ t.srcOff = s.srcOff + 8 + enc.toNat ∧
      t.chunkCount = s.chunkCount + 1 ∧
      Reference.values t.chan
        = Reference.values s.chan ++ (Reference.ws8Decode s.cfg s.ws8Pred.toNat p).1 ∧
      (t.ws8Pred.toNat : Int) = (Reference.ws8Decode s.cfg s.ws8Pred.toNat p).2

/-- R181, R182, R147, R162: the same for a container of WS8 chunks, however the commands are split into them: the
predictor is carried from chunk to chunk. `ERR` is as before. The schedule is fixed (log 1). -/
def Obligations.Ws8ContainerDecodesToItsBytes : Prop :=
  ∀ (s : State) (chunks : List (List Byte)) (k : Nat),
    workerAt .chdr s → s.callerClosed = false → s.fhCtype = 1 →
    (∀ p ∈ chunks, p.length ≤ 65535 ∧ Reference.ws8Size p ≤ 65535) →
    s.src.drop s.srcOff = (chunks.map fun p =>
      bytes16 (BitVec.ofNat 16 p.length) ++ bytes16 (BitVec.ofNat 16 (Reference.ws8Size p))
        ++ bytes32 s.cfg.chunkMagic ++ p).flatten →
    s.chan.length + Reference.ws8Size chunks.flatten ≤ s.cfg.chanCap →
    k = (chunks.map fun p => 3 + max 1 (Reference.ws8Size p)).sum + 1 →
    s.turns = List.replicate k (.worker quietDraw) →
    ∃ t, Host.Core.run Sys2Proof.core k s = .next t ∧
      t.state = .closed ∧ t.closeCause = .normal ∧ t.err = s.err ∧ t.sinkEnd = .eof ∧
      t.chunkCount = s.chunkCount + chunks.length ∧
      Reference.values t.chan
        = Reference.values s.chan ++ (Reference.ws8Decode s.cfg s.ws8Pred.toNat chunks.flatten).1

/-- R180: a run that is over stays over, and no step but the block's reset changes what it shows: the byte lists
that the `READ`s returned, the final `END` or `ERROR`, `STATE`, `ERR`, `CLOSE_CAUSE`, `SRC_OFF` and
`CHUNK_COUNT`. -/
def Obligations.RunOverKeepsTheObservation : Prop :=
  ∀ s t : State, RegInv s → runOver s → (∀ cfg src ts, s.turns ≠ .reset cfg src :: ts) → step s = .next t →
    runOver t ∧ observe t = observe s
end

