-- ==== Sys2Proof/Laws/Decode.lean ====
section
/-! SUPPORT. The fields of the encodings as numbers, and that the field builders and the field readers
undo each other (30_encoding.md R70 to R76). -/

namespace Sys2Proof

/-- The value of two bit strings joined. -/
theorem append_toNat {m n : Nat} (x : BitVec m) (y : BitVec n) : (x ++ y).toNat = x.toNat * 2 ^ n + y.toNat := by
  rw [BitVec.toNat_append, ← Nat.shiftLeft_add_eq_or_of_lt y.isLt, Nat.shiftLeft_eq]

/-- The value of a field of a bit string. -/
theorem extract_toNat {w : Nat} (s l : Nat) (x : BitVec w) :
    (x.extractLsb' s l).toNat = x.toNat / 2 ^ s % 2 ^ l := by
  rw [BitVec.extractLsb'_toNat, Nat.shiftRight_eq_div_pow]

/-- R11. -/
theorem le16_toNat (b0 b1 : Byte) : (le16 b0 b1).toNat = b0.toNat + 256 * b1.toNat := by
  simp only [le16, append_toNat]; omega

/-- R11. -/
theorem le32_toNat (b0 b1 b2 b3 : Byte) :
    (le32 b0 b1 b2 b3).toNat = b0.toNat + 2 ^ 8 * b1.toNat + 2 ^ 16 * b2.toNat + 2 ^ 24 * b3.toNat := by
  simp only [le32, append_toNat]; omega

/-- A u16 field is its two bytes assembled (R57). -/
theorem le16_of_bytes (v : BitVec 16) : le16 (v.extractLsb' 0 8) (v.extractLsb' 8 8) = v := by
  apply BitVec.eq_of_toNat_eq
  rw [le16_toNat, extract_toNat, extract_toNat]; omega

/-- A u32 field is its four bytes assembled (R57). -/
theorem le32_of_bytes (v : BitVec 32) :
    le32 (v.extractLsb' 0 8) (v.extractLsb' 8 8) (v.extractLsb' 16 8) (v.extractLsb' 24 8) = v := by
  apply BitVec.eq_of_toNat_eq
  simp only [le32_toNat, extract_toNat]; omega

/-- The bytes of an assembled u16 are the ones it was assembled from. -/
theorem bytes16_le16 (b0 b1 : Byte) : bytes16 (le16 b0 b1) = [b0, b1] := by
  simp only [bytes16, List.cons.injEq, and_true]
  refine ⟨?_, ?_⟩ <;> apply BitVec.eq_of_toNat_eq <;> rw [extract_toNat, le16_toNat] <;> omega

/-- The bytes of an assembled u32 are the ones it was assembled from. -/
theorem bytes32_le32 (b0 b1 b2 b3 : Byte) : bytes32 (le32 b0 b1 b2 b3) = [b0, b1, b2, b3] := by
  simp only [bytes32, List.cons.injEq, and_true]
  refine ⟨?_, ?_, ?_, ?_⟩ <;> apply BitVec.eq_of_toNat_eq <;> rw [extract_toNat, le32_toNat] <;> omega

@[simp] theorem lowNibble_toNat (b : Byte) : (lowNibble b).toNat = b.toNat % 16 := by
  simp only [lowNibble, extract_toNat]; omega

@[simp] theorem highNibble_toNat (b : Byte) : (highNibble b).toNat = b.toNat / 16 := by
  simp only [highNibble, extract_toNat]; omega

@[simp] theorem lowNibble_append (hi lo : BitVec 4) : lowNibble (hi ++ lo) = lo := by
  apply BitVec.eq_of_toNat_eq
  rw [lowNibble_toNat, append_toNat]; omega

@[simp] theorem highNibble_append (hi lo : BitVec 4) : highNibble (hi ++ lo) = hi := by
  apply BitVec.eq_of_toNat_eq
  rw [highNibble_toNat, append_toNat]; omega

/-- A byte is its two nibbles. -/
theorem nibbles_append (b : Byte) : highNibble b ++ lowNibble b = b := by
  apply BitVec.eq_of_toNat_eq
  rw [append_toNat, highNibble_toNat, lowNibble_toNat]; omega

/-- Bit 7 of a byte, as a bound (R76). -/
theorem bit7_iff (b : Byte) : b.getLsbD 7 = true ↔ 128 ≤ b.toNat := by
  rw [BitVec.getLsbD, Nat.testBit_eq_decide_div_mod_eq]
  simp; omega

/-- A command byte with bit 7 set is a RUN of its other seven bits (R76). -/
theorem decodeWs8_run (b : Byte) (h : 128 ≤ b.toNat) :
    ∃ count : BitVec 7, decodeWs8 b = .ws8Run count ∧ count.toNat = b.toNat - 128 :=
  ⟨b.extractLsb' 0 7, by rw [decodeWs8, if_pos ((bit7_iff b).2 h)], by rw [extract_toNat]; omega⟩

/-- A command byte with bit 7 clear is a DELTA of its two nibbles (R76). -/
theorem decodeWs8_delta (b : Byte) (h : ¬ 128 ≤ b.toNat) :
    ∃ (code1 : BitVec 3) (code2 : BitVec 4), decodeWs8 b = .ws8Delta code1 code2 ∧
      code1.toNat = b.toNat / 16 ∧ code2.toNat = b.toNat % 16 :=
  ⟨b.extractLsb' 4 3, b.extractLsb' 0 4, by rw [decodeWs8, if_neg (mt (bit7_iff b).1 h)],
    by rw [extract_toNat]; omega, by rw [extract_toNat]; omega⟩

/-- The RUN byte of a count decodes to it. -/
theorem decodeWs8_of_run (count : BitVec 7) : decodeWs8 (1#1 ++ count : BitVec 8) = .ws8Run count := by
  obtain ⟨c, hc, hn⟩ := decodeWs8_run (1#1 ++ count : BitVec 8) (by rw [append_toNat]; simp)
  rw [hc, Instr.ws8Run.injEq]
  apply BitVec.eq_of_toNat_eq
  rw [hn, append_toNat]; simp

/-- The DELTA byte of two codes decodes to them. -/
theorem decodeWs8_of_delta (code1 : BitVec 3) (code2 : BitVec 4) :
    decodeWs8 (0#1 ++ code1 ++ code2 : BitVec 8) = .ws8Delta code1 code2 := by
  obtain ⟨c, d, hc, h1, h2⟩ := decodeWs8_delta (0#1 ++ code1 ++ code2 : BitVec 8) (by
    simp only [append_toNat, BitVec.toNat_ofNat]; omega)
  rw [hc, Instr.ws8Delta.injEq]
  constructor <;> apply BitVec.eq_of_toNat_eq
  · rw [h1, append_toNat, append_toNat]; simp; omega
  · rw [h2, append_toNat, append_toNat]; omega

/-- A file header of fewer than 12 bytes is a short read (R79 (b)). -/
theorem decodeFileHeader_short (h : List Byte) (hl : h.length < 12) : decodeFileHeader h = .op (.fhdrShort h) [] := by
  unfold decodeFileHeader
  split
  · simp at hl; omega
  · rfl

/-- A chunk header of 1 to 7 bytes is a short read (R79 (c)). -/
theorem decodeChunkHeader_short (c : List Byte) (h1 : 1 ≤ c.length) (h8 : c.length < 8) :
    decodeChunkHeader c = .op (.chdrShort c) [] := by
  unfold decodeChunkHeader
  split
  · simp at h8; omega
  · simp at h1
  · rfl

/-- A list of at least twelve bytes, byte by byte. -/
theorem twelve_bytes (l : List Byte) (h : 12 ≤ l.length) :
    ∃ h0 h1 h2 h3 h4 h5 h6 h7 h8 h9 h10 h11 rest,
      l = h0 :: h1 :: h2 :: h3 :: h4 :: h5 :: h6 :: h7 :: h8 :: h9 :: h10 :: h11 :: rest := by
  match l, h with
  | h0 :: h1 :: h2 :: h3 :: h4 :: h5 :: h6 :: h7 :: h8 :: h9 :: h10 :: h11 :: rest, _ =>
    exact ⟨h0, h1, h2, h3, h4, h5, h6, h7, h8, h9, h10, h11, rest, rfl⟩

/-- A list of at least eight bytes, byte by byte. -/
theorem eight_bytes (l : List Byte) (h : 8 ≤ l.length) :
    ∃ c0 c1 c2 c3 c4 c5 c6 c7 rest, l = c0 :: c1 :: c2 :: c3 :: c4 :: c5 :: c6 :: c7 :: rest := by
  match l, h with
  | c0 :: c1 :: c2 :: c3 :: c4 :: c5 :: c6 :: c7 :: rest, _ =>
    exact ⟨c0, c1, c2, c3, c4, c5, c6, c7, rest, rfl⟩

end Sys2Proof
end

