-- ==== Sys2Proof/Laws/State.lean ====
section
/-! SUPPORT. What each shared update of the state does to each field. Every lemma is true by rfl and is a
rewrite rule, so that no later proof unfolds a record update. -/

namespace Sys2Proof.Machine

/-! ## `discardDecoder`: The decoder state is free, everything else is kept (R31). -/

@[simp] theorem discardDecoder_state (s : State) : (discardDecoder s).state = s.state := rfl
@[simp] theorem discardDecoder_phase (s : State) : (discardDecoder s).phase = s.phase := rfl
@[simp] theorem discardDecoder_err (s : State) : (discardDecoder s).err = s.err := rfl
@[simp] theorem discardDecoder_closeCause (s : State) : (discardDecoder s).closeCause = s.closeCause := rfl
@[simp] theorem discardDecoder_fhFreq (s : State) : (discardDecoder s).fhFreq = s.fhFreq := rfl
@[simp] theorem discardDecoder_fhDataSize (s : State) : (discardDecoder s).fhDataSize = s.fhDataSize := rfl
@[simp] theorem discardDecoder_fhOutSize (s : State) : (discardDecoder s).fhOutSize = s.fhOutSize := rfl
@[simp] theorem discardDecoder_fhFlags (s : State) : (discardDecoder s).fhFlags = s.fhFlags := rfl
@[simp] theorem discardDecoder_fhCtype (s : State) : (discardDecoder s).fhCtype = s.fhCtype := rfl
@[simp] theorem discardDecoder_chEnc (s : State) : (discardDecoder s).chEnc = s.chEnc := rfl
@[simp] theorem discardDecoder_chDec (s : State) : (discardDecoder s).chDec = s.chDec := rfl
@[simp] theorem discardDecoder_chMagic (s : State) : (discardDecoder s).chMagic = s.chMagic := rfl
@[simp] theorem discardDecoder_imaIndex (s : State) : (discardDecoder s).imaIndex = Config.freeImaIndex s.freeCount := rfl
@[simp] theorem discardDecoder_imaPred (s : State) : (discardDecoder s).imaPred = Config.freeImaPred s.freeCount := rfl
@[simp] theorem discardDecoder_ws8Pred (s : State) : (discardDecoder s).ws8Pred = Config.freeWs8Pred s.freeCount := rfl
@[simp] theorem discardDecoder_payload (s : State) : (discardDecoder s).payload = s.payload := rfl
@[simp] theorem discardDecoder_outbuf (s : State) : (discardDecoder s).outbuf = s.outbuf := rfl
@[simp] theorem discardDecoder_dlvPtr (s : State) : (discardDecoder s).dlvPtr = s.dlvPtr := rfl
@[simp] theorem discardDecoder_chan (s : State) : (discardDecoder s).chan = s.chan := rfl
@[simp] theorem discardDecoder_sinkEnd (s : State) : (discardDecoder s).sinkEnd = s.sinkEnd := rfl
@[simp] theorem discardDecoder_failSeen (s : State) : (discardDecoder s).failSeen = s.failSeen := rfl
@[simp] theorem discardDecoder_cancelReq (s : State) : (discardDecoder s).cancelReq = s.cancelReq := rfl
@[simp] theorem discardDecoder_callerClosed (s : State) : (discardDecoder s).callerClosed = s.callerClosed := rfl
@[simp] theorem discardDecoder_srcOff (s : State) : (discardDecoder s).srcOff = s.srcOff := rfl
@[simp] theorem discardDecoder_chunkCount (s : State) : (discardDecoder s).chunkCount = s.chunkCount := rfl
@[simp] theorem discardDecoder_callerWait (s : State) : (discardDecoder s).callerWait = s.callerWait := rfl
@[simp] theorem discardDecoder_cfg (s : State) : (discardDecoder s).cfg = s.cfg := rfl
@[simp] theorem discardDecoder_src (s : State) : (discardDecoder s).src = s.src := rfl
@[simp] theorem discardDecoder_draw (s : State) : (discardDecoder s).draw = s.draw := rfl
@[simp] theorem discardDecoder_turns (s : State) : (discardDecoder s).turns = s.turns := rfl
@[simp] theorem discardDecoder_cmds (s : State) : (discardDecoder s).cmds = s.cmds := rfl
@[simp] theorem discardDecoder_results (s : State) : (discardDecoder s).results = s.results := rfl
@[simp] theorem discardDecoder_freeCount (s : State) : (discardDecoder s).freeCount = s.freeCount + 1 := rfl
@[simp] theorem discardDecoder_freeMover (s : State) : (discardDecoder s).freeMover = s.freeMover := rfl
@[simp] theorem discardDecoder_freeLeft (s : State) : (discardDecoder s).freeLeft = s.freeLeft := rfl

/-! ## `discardHeader`: The header registers are free, everything else is kept (R207). -/

@[simp] theorem discardHeader_state (s : State) : (discardHeader s).state = s.state := rfl
@[simp] theorem discardHeader_phase (s : State) : (discardHeader s).phase = s.phase := rfl
@[simp] theorem discardHeader_err (s : State) : (discardHeader s).err = s.err := rfl
@[simp] theorem discardHeader_closeCause (s : State) : (discardHeader s).closeCause = s.closeCause := rfl
@[simp] theorem discardHeader_fhFreq (s : State) : (discardHeader s).fhFreq = Config.freeFhFreq s.freeCount := rfl
@[simp] theorem discardHeader_fhDataSize (s : State) : (discardHeader s).fhDataSize = Config.freeFhDataSize s.freeCount := rfl
@[simp] theorem discardHeader_fhOutSize (s : State) : (discardHeader s).fhOutSize = Config.freeFhOutSize s.freeCount := rfl
@[simp] theorem discardHeader_fhFlags (s : State) : (discardHeader s).fhFlags = Config.freeFhFlags s.freeCount := rfl
@[simp] theorem discardHeader_fhCtype (s : State) : (discardHeader s).fhCtype = Config.freeFhCtype s.freeCount := rfl
@[simp] theorem discardHeader_chEnc (s : State) : (discardHeader s).chEnc = s.chEnc := rfl
@[simp] theorem discardHeader_chDec (s : State) : (discardHeader s).chDec = s.chDec := rfl
@[simp] theorem discardHeader_chMagic (s : State) : (discardHeader s).chMagic = s.chMagic := rfl
@[simp] theorem discardHeader_imaIndex (s : State) : (discardHeader s).imaIndex = s.imaIndex := rfl
@[simp] theorem discardHeader_imaPred (s : State) : (discardHeader s).imaPred = s.imaPred := rfl
@[simp] theorem discardHeader_ws8Pred (s : State) : (discardHeader s).ws8Pred = s.ws8Pred := rfl
@[simp] theorem discardHeader_payload (s : State) : (discardHeader s).payload = s.payload := rfl
@[simp] theorem discardHeader_outbuf (s : State) : (discardHeader s).outbuf = s.outbuf := rfl
@[simp] theorem discardHeader_dlvPtr (s : State) : (discardHeader s).dlvPtr = s.dlvPtr := rfl
@[simp] theorem discardHeader_chan (s : State) : (discardHeader s).chan = s.chan := rfl
@[simp] theorem discardHeader_sinkEnd (s : State) : (discardHeader s).sinkEnd = s.sinkEnd := rfl
@[simp] theorem discardHeader_failSeen (s : State) : (discardHeader s).failSeen = s.failSeen := rfl
@[simp] theorem discardHeader_cancelReq (s : State) : (discardHeader s).cancelReq = s.cancelReq := rfl
@[simp] theorem discardHeader_callerClosed (s : State) : (discardHeader s).callerClosed = s.callerClosed := rfl
@[simp] theorem discardHeader_srcOff (s : State) : (discardHeader s).srcOff = s.srcOff := rfl
@[simp] theorem discardHeader_chunkCount (s : State) : (discardHeader s).chunkCount = s.chunkCount := rfl
@[simp] theorem discardHeader_callerWait (s : State) : (discardHeader s).callerWait = s.callerWait := rfl
@[simp] theorem discardHeader_cfg (s : State) : (discardHeader s).cfg = s.cfg := rfl
@[simp] theorem discardHeader_src (s : State) : (discardHeader s).src = s.src := rfl
@[simp] theorem discardHeader_draw (s : State) : (discardHeader s).draw = s.draw := rfl
@[simp] theorem discardHeader_turns (s : State) : (discardHeader s).turns = s.turns := rfl
@[simp] theorem discardHeader_cmds (s : State) : (discardHeader s).cmds = s.cmds := rfl
@[simp] theorem discardHeader_results (s : State) : (discardHeader s).results = s.results := rfl
@[simp] theorem discardHeader_freeCount (s : State) : (discardHeader s).freeCount = s.freeCount + 1 := rfl
@[simp] theorem discardHeader_freeMover (s : State) : (discardHeader s).freeMover = s.freeMover := rfl
@[simp] theorem discardHeader_freeLeft (s : State) : (discardHeader s).freeLeft = s.freeLeft := rfl

/-! ## `fail`: The chunk-level failure entry (R206). -/

@[simp] theorem fail_state (e : ErrorCode) (s : State) : (fail e s).state = .failed := rfl
@[simp] theorem fail_phase (e : ErrorCode) (s : State) : (fail e s).phase = s.phase := rfl
@[simp] theorem fail_err (e : ErrorCode) (s : State) : (fail e s).err = e := rfl
@[simp] theorem fail_closeCause (e : ErrorCode) (s : State) : (fail e s).closeCause = s.closeCause := rfl
@[simp] theorem fail_fhFreq (e : ErrorCode) (s : State) : (fail e s).fhFreq = s.fhFreq := rfl
@[simp] theorem fail_fhDataSize (e : ErrorCode) (s : State) : (fail e s).fhDataSize = s.fhDataSize := rfl
@[simp] theorem fail_fhOutSize (e : ErrorCode) (s : State) : (fail e s).fhOutSize = s.fhOutSize := rfl
@[simp] theorem fail_fhFlags (e : ErrorCode) (s : State) : (fail e s).fhFlags = s.fhFlags := rfl
@[simp] theorem fail_fhCtype (e : ErrorCode) (s : State) : (fail e s).fhCtype = s.fhCtype := rfl
@[simp] theorem fail_chEnc (e : ErrorCode) (s : State) : (fail e s).chEnc = s.chEnc := rfl
@[simp] theorem fail_chDec (e : ErrorCode) (s : State) : (fail e s).chDec = s.chDec := rfl
@[simp] theorem fail_chMagic (e : ErrorCode) (s : State) : (fail e s).chMagic = s.chMagic := rfl
@[simp] theorem fail_imaIndex (e : ErrorCode) (s : State) : (fail e s).imaIndex = Config.freeImaIndex s.freeCount := rfl
@[simp] theorem fail_imaPred (e : ErrorCode) (s : State) : (fail e s).imaPred = Config.freeImaPred s.freeCount := rfl
@[simp] theorem fail_ws8Pred (e : ErrorCode) (s : State) : (fail e s).ws8Pred = Config.freeWs8Pred s.freeCount := rfl
@[simp] theorem fail_payload (e : ErrorCode) (s : State) : (fail e s).payload = [] := rfl
@[simp] theorem fail_outbuf (e : ErrorCode) (s : State) : (fail e s).outbuf = [] := rfl
@[simp] theorem fail_dlvPtr (e : ErrorCode) (s : State) : (fail e s).dlvPtr = s.dlvPtr := rfl
@[simp] theorem fail_chan (e : ErrorCode) (s : State) : (fail e s).chan = s.chan := rfl
@[simp] theorem fail_sinkEnd (e : ErrorCode) (s : State) : (fail e s).sinkEnd = .abnormal := rfl
@[simp] theorem fail_failSeen (e : ErrorCode) (s : State) : (fail e s).failSeen = s.failSeen := rfl
@[simp] theorem fail_cancelReq (e : ErrorCode) (s : State) : (fail e s).cancelReq = s.cancelReq := rfl
@[simp] theorem fail_callerClosed (e : ErrorCode) (s : State) : (fail e s).callerClosed = s.callerClosed := rfl
@[simp] theorem fail_srcOff (e : ErrorCode) (s : State) : (fail e s).srcOff = s.srcOff := rfl
@[simp] theorem fail_chunkCount (e : ErrorCode) (s : State) : (fail e s).chunkCount = s.chunkCount := rfl
@[simp] theorem fail_callerWait (e : ErrorCode) (s : State) : (fail e s).callerWait = s.callerWait := rfl
@[simp] theorem fail_cfg (e : ErrorCode) (s : State) : (fail e s).cfg = s.cfg := rfl
@[simp] theorem fail_src (e : ErrorCode) (s : State) : (fail e s).src = s.src := rfl
@[simp] theorem fail_draw (e : ErrorCode) (s : State) : (fail e s).draw = s.draw := rfl
@[simp] theorem fail_turns (e : ErrorCode) (s : State) : (fail e s).turns = s.turns := rfl
@[simp] theorem fail_cmds (e : ErrorCode) (s : State) : (fail e s).cmds = s.cmds := rfl
@[simp] theorem fail_results (e : ErrorCode) (s : State) : (fail e s).results = s.results := rfl
@[simp] theorem fail_freeCount (e : ErrorCode) (s : State) : (fail e s).freeCount = s.freeCount + 1 := rfl
@[simp] theorem fail_freeMover (e : ErrorCode) (s : State) : (fail e s).freeMover = s.freeMover := rfl
@[simp] theorem fail_freeLeft (e : ErrorCode) (s : State) : (fail e s).freeLeft = s.freeLeft := rfl

/-! ## `openFail`: The open failure entry (R207). -/

@[simp] theorem openFail_state (e : ErrorCode) (s : State) : (openFail e s).state = .openFail := rfl
@[simp] theorem openFail_phase (e : ErrorCode) (s : State) : (openFail e s).phase = s.phase := rfl
@[simp] theorem openFail_err (e : ErrorCode) (s : State) : (openFail e s).err = e := rfl
@[simp] theorem openFail_closeCause (e : ErrorCode) (s : State) : (openFail e s).closeCause = s.closeCause := rfl
@[simp] theorem openFail_fhFreq (e : ErrorCode) (s : State) : (openFail e s).fhFreq = Config.freeFhFreq (s.freeCount + 1) := rfl
@[simp] theorem openFail_fhDataSize (e : ErrorCode) (s : State) : (openFail e s).fhDataSize = Config.freeFhDataSize (s.freeCount + 1) := rfl
@[simp] theorem openFail_fhOutSize (e : ErrorCode) (s : State) : (openFail e s).fhOutSize = Config.freeFhOutSize (s.freeCount + 1) := rfl
@[simp] theorem openFail_fhFlags (e : ErrorCode) (s : State) : (openFail e s).fhFlags = Config.freeFhFlags (s.freeCount + 1) := rfl
@[simp] theorem openFail_fhCtype (e : ErrorCode) (s : State) : (openFail e s).fhCtype = Config.freeFhCtype (s.freeCount + 1) := rfl
@[simp] theorem openFail_chEnc (e : ErrorCode) (s : State) : (openFail e s).chEnc = s.chEnc := rfl
@[simp] theorem openFail_chDec (e : ErrorCode) (s : State) : (openFail e s).chDec = s.chDec := rfl
@[simp] theorem openFail_chMagic (e : ErrorCode) (s : State) : (openFail e s).chMagic = s.chMagic := rfl
@[simp] theorem openFail_imaIndex (e : ErrorCode) (s : State) : (openFail e s).imaIndex = Config.freeImaIndex s.freeCount := rfl
@[simp] theorem openFail_imaPred (e : ErrorCode) (s : State) : (openFail e s).imaPred = Config.freeImaPred s.freeCount := rfl
@[simp] theorem openFail_ws8Pred (e : ErrorCode) (s : State) : (openFail e s).ws8Pred = Config.freeWs8Pred s.freeCount := rfl
@[simp] theorem openFail_payload (e : ErrorCode) (s : State) : (openFail e s).payload = s.payload := rfl
@[simp] theorem openFail_outbuf (e : ErrorCode) (s : State) : (openFail e s).outbuf = s.outbuf := rfl
@[simp] theorem openFail_dlvPtr (e : ErrorCode) (s : State) : (openFail e s).dlvPtr = s.dlvPtr := rfl
@[simp] theorem openFail_chan (e : ErrorCode) (s : State) : (openFail e s).chan = s.chan := rfl
@[simp] theorem openFail_sinkEnd (e : ErrorCode) (s : State) : (openFail e s).sinkEnd = s.sinkEnd := rfl
@[simp] theorem openFail_failSeen (e : ErrorCode) (s : State) : (openFail e s).failSeen = s.failSeen := rfl
@[simp] theorem openFail_cancelReq (e : ErrorCode) (s : State) : (openFail e s).cancelReq = s.cancelReq := rfl
@[simp] theorem openFail_callerClosed (e : ErrorCode) (s : State) : (openFail e s).callerClosed = s.callerClosed := rfl
@[simp] theorem openFail_srcOff (e : ErrorCode) (s : State) : (openFail e s).srcOff = s.srcOff := rfl
@[simp] theorem openFail_chunkCount (e : ErrorCode) (s : State) : (openFail e s).chunkCount = s.chunkCount := rfl
@[simp] theorem openFail_callerWait (e : ErrorCode) (s : State) : (openFail e s).callerWait = s.callerWait := rfl
@[simp] theorem openFail_cfg (e : ErrorCode) (s : State) : (openFail e s).cfg = s.cfg := rfl
@[simp] theorem openFail_src (e : ErrorCode) (s : State) : (openFail e s).src = s.src := rfl
@[simp] theorem openFail_draw (e : ErrorCode) (s : State) : (openFail e s).draw = s.draw := rfl
@[simp] theorem openFail_turns (e : ErrorCode) (s : State) : (openFail e s).turns = s.turns := rfl
@[simp] theorem openFail_cmds (e : ErrorCode) (s : State) : (openFail e s).cmds = s.cmds := rfl
@[simp] theorem openFail_results (e : ErrorCode) (s : State) : (openFail e s).results = s.results := rfl
@[simp] theorem openFail_freeCount (e : ErrorCode) (s : State) : (openFail e s).freeCount = s.freeCount + 2 := rfl
@[simp] theorem openFail_freeMover (e : ErrorCode) (s : State) : (openFail e s).freeMover = s.freeMover := rfl
@[simp] theorem openFail_freeLeft (e : ErrorCode) (s : State) : (openFail e s).freeLeft = s.freeLeft := rfl

/-! ## `loseSrcOff`: `SRC_OFF` is free (R201). -/

@[simp] theorem loseSrcOff_state (s : State) : (loseSrcOff s).state = s.state := rfl
@[simp] theorem loseSrcOff_phase (s : State) : (loseSrcOff s).phase = s.phase := rfl
@[simp] theorem loseSrcOff_err (s : State) : (loseSrcOff s).err = s.err := rfl
@[simp] theorem loseSrcOff_closeCause (s : State) : (loseSrcOff s).closeCause = s.closeCause := rfl
@[simp] theorem loseSrcOff_fhFreq (s : State) : (loseSrcOff s).fhFreq = s.fhFreq := rfl
@[simp] theorem loseSrcOff_fhDataSize (s : State) : (loseSrcOff s).fhDataSize = s.fhDataSize := rfl
@[simp] theorem loseSrcOff_fhOutSize (s : State) : (loseSrcOff s).fhOutSize = s.fhOutSize := rfl
@[simp] theorem loseSrcOff_fhFlags (s : State) : (loseSrcOff s).fhFlags = s.fhFlags := rfl
@[simp] theorem loseSrcOff_fhCtype (s : State) : (loseSrcOff s).fhCtype = s.fhCtype := rfl
@[simp] theorem loseSrcOff_chEnc (s : State) : (loseSrcOff s).chEnc = s.chEnc := rfl
@[simp] theorem loseSrcOff_chDec (s : State) : (loseSrcOff s).chDec = s.chDec := rfl
@[simp] theorem loseSrcOff_chMagic (s : State) : (loseSrcOff s).chMagic = s.chMagic := rfl
@[simp] theorem loseSrcOff_imaIndex (s : State) : (loseSrcOff s).imaIndex = s.imaIndex := rfl
@[simp] theorem loseSrcOff_imaPred (s : State) : (loseSrcOff s).imaPred = s.imaPred := rfl
@[simp] theorem loseSrcOff_ws8Pred (s : State) : (loseSrcOff s).ws8Pred = s.ws8Pred := rfl
@[simp] theorem loseSrcOff_payload (s : State) : (loseSrcOff s).payload = s.payload := rfl
@[simp] theorem loseSrcOff_outbuf (s : State) : (loseSrcOff s).outbuf = s.outbuf := rfl
@[simp] theorem loseSrcOff_dlvPtr (s : State) : (loseSrcOff s).dlvPtr = s.dlvPtr := rfl
@[simp] theorem loseSrcOff_chan (s : State) : (loseSrcOff s).chan = s.chan := rfl
@[simp] theorem loseSrcOff_sinkEnd (s : State) : (loseSrcOff s).sinkEnd = s.sinkEnd := rfl
@[simp] theorem loseSrcOff_failSeen (s : State) : (loseSrcOff s).failSeen = s.failSeen := rfl
@[simp] theorem loseSrcOff_cancelReq (s : State) : (loseSrcOff s).cancelReq = s.cancelReq := rfl
@[simp] theorem loseSrcOff_callerClosed (s : State) : (loseSrcOff s).callerClosed = s.callerClosed := rfl
@[simp] theorem loseSrcOff_srcOff (s : State) : (loseSrcOff s).srcOff = Config.freeSrcOff s.freeCount := rfl
@[simp] theorem loseSrcOff_chunkCount (s : State) : (loseSrcOff s).chunkCount = s.chunkCount := rfl
@[simp] theorem loseSrcOff_callerWait (s : State) : (loseSrcOff s).callerWait = s.callerWait := rfl
@[simp] theorem loseSrcOff_cfg (s : State) : (loseSrcOff s).cfg = s.cfg := rfl
@[simp] theorem loseSrcOff_src (s : State) : (loseSrcOff s).src = s.src := rfl
@[simp] theorem loseSrcOff_draw (s : State) : (loseSrcOff s).draw = s.draw := rfl
@[simp] theorem loseSrcOff_turns (s : State) : (loseSrcOff s).turns = s.turns := rfl
@[simp] theorem loseSrcOff_cmds (s : State) : (loseSrcOff s).cmds = s.cmds := rfl
@[simp] theorem loseSrcOff_results (s : State) : (loseSrcOff s).results = s.results := rfl
@[simp] theorem loseSrcOff_freeCount (s : State) : (loseSrcOff s).freeCount = s.freeCount + 1 := rfl
@[simp] theorem loseSrcOff_freeMover (s : State) : (loseSrcOff s).freeMover = s.freeMover := rfl
@[simp] theorem loseSrcOff_freeLeft (s : State) : (loseSrcOff s).freeLeft = s.freeLeft := rfl

/-! ## `outAppend`: `OutAppend(b)` (R33). -/

@[simp] theorem outAppend_state (b : Byte) (s : State) : (outAppend b s).state = s.state := rfl
@[simp] theorem outAppend_phase (b : Byte) (s : State) : (outAppend b s).phase = s.phase := rfl
@[simp] theorem outAppend_err (b : Byte) (s : State) : (outAppend b s).err = s.err := rfl
@[simp] theorem outAppend_closeCause (b : Byte) (s : State) : (outAppend b s).closeCause = s.closeCause := rfl
@[simp] theorem outAppend_fhFreq (b : Byte) (s : State) : (outAppend b s).fhFreq = s.fhFreq := rfl
@[simp] theorem outAppend_fhDataSize (b : Byte) (s : State) : (outAppend b s).fhDataSize = s.fhDataSize := rfl
@[simp] theorem outAppend_fhOutSize (b : Byte) (s : State) : (outAppend b s).fhOutSize = s.fhOutSize := rfl
@[simp] theorem outAppend_fhFlags (b : Byte) (s : State) : (outAppend b s).fhFlags = s.fhFlags := rfl
@[simp] theorem outAppend_fhCtype (b : Byte) (s : State) : (outAppend b s).fhCtype = s.fhCtype := rfl
@[simp] theorem outAppend_chEnc (b : Byte) (s : State) : (outAppend b s).chEnc = s.chEnc := rfl
@[simp] theorem outAppend_chDec (b : Byte) (s : State) : (outAppend b s).chDec = s.chDec := rfl
@[simp] theorem outAppend_chMagic (b : Byte) (s : State) : (outAppend b s).chMagic = s.chMagic := rfl
@[simp] theorem outAppend_imaIndex (b : Byte) (s : State) : (outAppend b s).imaIndex = s.imaIndex := rfl
@[simp] theorem outAppend_imaPred (b : Byte) (s : State) : (outAppend b s).imaPred = s.imaPred := rfl
@[simp] theorem outAppend_ws8Pred (b : Byte) (s : State) : (outAppend b s).ws8Pred = s.ws8Pred := rfl
@[simp] theorem outAppend_payload (b : Byte) (s : State) : (outAppend b s).payload = s.payload := rfl
@[simp] theorem outAppend_outbuf (b : Byte) (s : State) : (outAppend b s).outbuf = s.outbuf ++ [b] := rfl
@[simp] theorem outAppend_dlvPtr (b : Byte) (s : State) : (outAppend b s).dlvPtr = s.dlvPtr := rfl
@[simp] theorem outAppend_chan (b : Byte) (s : State) : (outAppend b s).chan = s.chan := rfl
@[simp] theorem outAppend_sinkEnd (b : Byte) (s : State) : (outAppend b s).sinkEnd = s.sinkEnd := rfl
@[simp] theorem outAppend_failSeen (b : Byte) (s : State) : (outAppend b s).failSeen = s.failSeen := rfl
@[simp] theorem outAppend_cancelReq (b : Byte) (s : State) : (outAppend b s).cancelReq = s.cancelReq := rfl
@[simp] theorem outAppend_callerClosed (b : Byte) (s : State) : (outAppend b s).callerClosed = s.callerClosed := rfl
@[simp] theorem outAppend_srcOff (b : Byte) (s : State) : (outAppend b s).srcOff = s.srcOff := rfl
@[simp] theorem outAppend_chunkCount (b : Byte) (s : State) : (outAppend b s).chunkCount = s.chunkCount := rfl
@[simp] theorem outAppend_callerWait (b : Byte) (s : State) : (outAppend b s).callerWait = s.callerWait := rfl
@[simp] theorem outAppend_cfg (b : Byte) (s : State) : (outAppend b s).cfg = s.cfg := rfl
@[simp] theorem outAppend_src (b : Byte) (s : State) : (outAppend b s).src = s.src := rfl
@[simp] theorem outAppend_draw (b : Byte) (s : State) : (outAppend b s).draw = s.draw := rfl
@[simp] theorem outAppend_turns (b : Byte) (s : State) : (outAppend b s).turns = s.turns := rfl
@[simp] theorem outAppend_cmds (b : Byte) (s : State) : (outAppend b s).cmds = s.cmds := rfl
@[simp] theorem outAppend_results (b : Byte) (s : State) : (outAppend b s).results = s.results := rfl
@[simp] theorem outAppend_freeCount (b : Byte) (s : State) : (outAppend b s).freeCount = s.freeCount := rfl
@[simp] theorem outAppend_freeMover (b : Byte) (s : State) : (outAppend b s).freeMover = s.freeMover := rfl
@[simp] theorem outAppend_freeLeft (b : Byte) (s : State) : (outAppend b s).freeLeft = s.freeLeft := rfl

/-! ## `record`: What the caller got is recorded (R180). -/

@[simp] theorem record_state (r : HostResult) (s : State) : (record r s).state = s.state := rfl
@[simp] theorem record_phase (r : HostResult) (s : State) : (record r s).phase = s.phase := rfl
@[simp] theorem record_err (r : HostResult) (s : State) : (record r s).err = s.err := rfl
@[simp] theorem record_closeCause (r : HostResult) (s : State) : (record r s).closeCause = s.closeCause := rfl
@[simp] theorem record_fhFreq (r : HostResult) (s : State) : (record r s).fhFreq = s.fhFreq := rfl
@[simp] theorem record_fhDataSize (r : HostResult) (s : State) : (record r s).fhDataSize = s.fhDataSize := rfl
@[simp] theorem record_fhOutSize (r : HostResult) (s : State) : (record r s).fhOutSize = s.fhOutSize := rfl
@[simp] theorem record_fhFlags (r : HostResult) (s : State) : (record r s).fhFlags = s.fhFlags := rfl
@[simp] theorem record_fhCtype (r : HostResult) (s : State) : (record r s).fhCtype = s.fhCtype := rfl
@[simp] theorem record_chEnc (r : HostResult) (s : State) : (record r s).chEnc = s.chEnc := rfl
@[simp] theorem record_chDec (r : HostResult) (s : State) : (record r s).chDec = s.chDec := rfl
@[simp] theorem record_chMagic (r : HostResult) (s : State) : (record r s).chMagic = s.chMagic := rfl
@[simp] theorem record_imaIndex (r : HostResult) (s : State) : (record r s).imaIndex = s.imaIndex := rfl
@[simp] theorem record_imaPred (r : HostResult) (s : State) : (record r s).imaPred = s.imaPred := rfl
@[simp] theorem record_ws8Pred (r : HostResult) (s : State) : (record r s).ws8Pred = s.ws8Pred := rfl
@[simp] theorem record_payload (r : HostResult) (s : State) : (record r s).payload = s.payload := rfl
@[simp] theorem record_outbuf (r : HostResult) (s : State) : (record r s).outbuf = s.outbuf := rfl
@[simp] theorem record_dlvPtr (r : HostResult) (s : State) : (record r s).dlvPtr = s.dlvPtr := rfl
@[simp] theorem record_chan (r : HostResult) (s : State) : (record r s).chan = s.chan := rfl
@[simp] theorem record_sinkEnd (r : HostResult) (s : State) : (record r s).sinkEnd = s.sinkEnd := rfl
@[simp] theorem record_failSeen (r : HostResult) (s : State) : (record r s).failSeen = s.failSeen := rfl
@[simp] theorem record_cancelReq (r : HostResult) (s : State) : (record r s).cancelReq = s.cancelReq := rfl
@[simp] theorem record_callerClosed (r : HostResult) (s : State) : (record r s).callerClosed = s.callerClosed := rfl
@[simp] theorem record_srcOff (r : HostResult) (s : State) : (record r s).srcOff = s.srcOff := rfl
@[simp] theorem record_chunkCount (r : HostResult) (s : State) : (record r s).chunkCount = s.chunkCount := rfl
@[simp] theorem record_callerWait (r : HostResult) (s : State) : (record r s).callerWait = s.callerWait := rfl
@[simp] theorem record_cfg (r : HostResult) (s : State) : (record r s).cfg = s.cfg := rfl
@[simp] theorem record_src (r : HostResult) (s : State) : (record r s).src = s.src := rfl
@[simp] theorem record_draw (r : HostResult) (s : State) : (record r s).draw = s.draw := rfl
@[simp] theorem record_turns (r : HostResult) (s : State) : (record r s).turns = s.turns := rfl
@[simp] theorem record_cmds (r : HostResult) (s : State) : (record r s).cmds = s.cmds := rfl
@[simp] theorem record_results (r : HostResult) (s : State) : (record r s).results = s.results ++ [r] := rfl
@[simp] theorem record_freeCount (r : HostResult) (s : State) : (record r s).freeCount = s.freeCount := rfl
@[simp] theorem record_freeMover (r : HostResult) (s : State) : (record r s).freeMover = s.freeMover := rfl
@[simp] theorem record_freeLeft (r : HostResult) (s : State) : (record r s).freeLeft = s.freeLeft := rfl

/-! ## `answer`: A `READ` returns (R175). -/

@[simp] theorem answer_state (r : HostResult) (s : State) : (answer r s).state = s.state := rfl
@[simp] theorem answer_phase (r : HostResult) (s : State) : (answer r s).phase = s.phase := rfl
@[simp] theorem answer_err (r : HostResult) (s : State) : (answer r s).err = s.err := rfl
@[simp] theorem answer_closeCause (r : HostResult) (s : State) : (answer r s).closeCause = s.closeCause := rfl
@[simp] theorem answer_fhFreq (r : HostResult) (s : State) : (answer r s).fhFreq = s.fhFreq := rfl
@[simp] theorem answer_fhDataSize (r : HostResult) (s : State) : (answer r s).fhDataSize = s.fhDataSize := rfl
@[simp] theorem answer_fhOutSize (r : HostResult) (s : State) : (answer r s).fhOutSize = s.fhOutSize := rfl
@[simp] theorem answer_fhFlags (r : HostResult) (s : State) : (answer r s).fhFlags = s.fhFlags := rfl
@[simp] theorem answer_fhCtype (r : HostResult) (s : State) : (answer r s).fhCtype = s.fhCtype := rfl
@[simp] theorem answer_chEnc (r : HostResult) (s : State) : (answer r s).chEnc = s.chEnc := rfl
@[simp] theorem answer_chDec (r : HostResult) (s : State) : (answer r s).chDec = s.chDec := rfl
@[simp] theorem answer_chMagic (r : HostResult) (s : State) : (answer r s).chMagic = s.chMagic := rfl
@[simp] theorem answer_imaIndex (r : HostResult) (s : State) : (answer r s).imaIndex = s.imaIndex := rfl
@[simp] theorem answer_imaPred (r : HostResult) (s : State) : (answer r s).imaPred = s.imaPred := rfl
@[simp] theorem answer_ws8Pred (r : HostResult) (s : State) : (answer r s).ws8Pred = s.ws8Pred := rfl
@[simp] theorem answer_payload (r : HostResult) (s : State) : (answer r s).payload = s.payload := rfl
@[simp] theorem answer_outbuf (r : HostResult) (s : State) : (answer r s).outbuf = s.outbuf := rfl
@[simp] theorem answer_dlvPtr (r : HostResult) (s : State) : (answer r s).dlvPtr = s.dlvPtr := rfl
@[simp] theorem answer_chan (r : HostResult) (s : State) : (answer r s).chan = s.chan := rfl
@[simp] theorem answer_sinkEnd (r : HostResult) (s : State) : (answer r s).sinkEnd = s.sinkEnd := rfl
@[simp] theorem answer_failSeen (r : HostResult) (s : State) : (answer r s).failSeen = s.failSeen := rfl
@[simp] theorem answer_cancelReq (r : HostResult) (s : State) : (answer r s).cancelReq = s.cancelReq := rfl
@[simp] theorem answer_callerClosed (r : HostResult) (s : State) : (answer r s).callerClosed = s.callerClosed := rfl
@[simp] theorem answer_srcOff (r : HostResult) (s : State) : (answer r s).srcOff = s.srcOff := rfl
@[simp] theorem answer_chunkCount (r : HostResult) (s : State) : (answer r s).chunkCount = s.chunkCount := rfl
@[simp] theorem answer_callerWait (r : HostResult) (s : State) : (answer r s).callerWait = none := rfl
@[simp] theorem answer_cfg (r : HostResult) (s : State) : (answer r s).cfg = s.cfg := rfl
@[simp] theorem answer_src (r : HostResult) (s : State) : (answer r s).src = s.src := rfl
@[simp] theorem answer_draw (r : HostResult) (s : State) : (answer r s).draw = s.draw := rfl
@[simp] theorem answer_turns (r : HostResult) (s : State) : (answer r s).turns = s.turns := rfl
@[simp] theorem answer_cmds (r : HostResult) (s : State) : (answer r s).cmds = s.cmds := rfl
@[simp] theorem answer_results (r : HostResult) (s : State) : (answer r s).results = s.results ++ [r] := rfl
@[simp] theorem answer_freeCount (r : HostResult) (s : State) : (answer r s).freeCount = s.freeCount := rfl
@[simp] theorem answer_freeMover (r : HostResult) (s : State) : (answer r s).freeMover = s.freeMover := rfl
@[simp] theorem answer_freeLeft (r : HostResult) (s : State) : (answer r s).freeLeft = s.freeLeft := rfl

/-! ## `beginChunk`: The chunk-header step before its read (R163). -/

@[simp] theorem beginChunk_state (s : State) : (beginChunk s).state = s.state := rfl
@[simp] theorem beginChunk_phase (s : State) : (beginChunk s).phase = s.phase := rfl
@[simp] theorem beginChunk_err (s : State) : (beginChunk s).err = s.err := rfl
@[simp] theorem beginChunk_closeCause (s : State) : (beginChunk s).closeCause = s.closeCause := rfl
@[simp] theorem beginChunk_fhFreq (s : State) : (beginChunk s).fhFreq = s.fhFreq := rfl
@[simp] theorem beginChunk_fhDataSize (s : State) : (beginChunk s).fhDataSize = s.fhDataSize := rfl
@[simp] theorem beginChunk_fhOutSize (s : State) : (beginChunk s).fhOutSize = s.fhOutSize := rfl
@[simp] theorem beginChunk_fhFlags (s : State) : (beginChunk s).fhFlags = s.fhFlags := rfl
@[simp] theorem beginChunk_fhCtype (s : State) : (beginChunk s).fhCtype = s.fhCtype := rfl
@[simp] theorem beginChunk_chEnc (s : State) : (beginChunk s).chEnc = s.chEnc := rfl
@[simp] theorem beginChunk_chDec (s : State) : (beginChunk s).chDec = s.chDec := rfl
@[simp] theorem beginChunk_chMagic (s : State) : (beginChunk s).chMagic = s.chMagic := rfl
@[simp] theorem beginChunk_imaIndex (s : State) : (beginChunk s).imaIndex = s.imaIndex := rfl
@[simp] theorem beginChunk_imaPred (s : State) : (beginChunk s).imaPred = s.imaPred := rfl
@[simp] theorem beginChunk_ws8Pred (s : State) : (beginChunk s).ws8Pred = s.ws8Pred := rfl
@[simp] theorem beginChunk_payload (s : State) : (beginChunk s).payload = [] := rfl
@[simp] theorem beginChunk_outbuf (s : State) : (beginChunk s).outbuf = [] := rfl
@[simp] theorem beginChunk_dlvPtr (s : State) : (beginChunk s).dlvPtr = 0 := rfl
@[simp] theorem beginChunk_chan (s : State) : (beginChunk s).chan = s.chan := rfl
@[simp] theorem beginChunk_sinkEnd (s : State) : (beginChunk s).sinkEnd = s.sinkEnd := rfl
@[simp] theorem beginChunk_failSeen (s : State) : (beginChunk s).failSeen = s.failSeen := rfl
@[simp] theorem beginChunk_cancelReq (s : State) : (beginChunk s).cancelReq = s.cancelReq := rfl
@[simp] theorem beginChunk_callerClosed (s : State) : (beginChunk s).callerClosed = s.callerClosed := rfl
@[simp] theorem beginChunk_srcOff (s : State) : (beginChunk s).srcOff = s.srcOff := rfl
@[simp] theorem beginChunk_chunkCount (s : State) : (beginChunk s).chunkCount = s.chunkCount := rfl
@[simp] theorem beginChunk_callerWait (s : State) : (beginChunk s).callerWait = s.callerWait := rfl
@[simp] theorem beginChunk_cfg (s : State) : (beginChunk s).cfg = s.cfg := rfl
@[simp] theorem beginChunk_src (s : State) : (beginChunk s).src = s.src := rfl
@[simp] theorem beginChunk_draw (s : State) : (beginChunk s).draw = s.draw := rfl
@[simp] theorem beginChunk_turns (s : State) : (beginChunk s).turns = s.turns := rfl
@[simp] theorem beginChunk_cmds (s : State) : (beginChunk s).cmds = s.cmds := rfl
@[simp] theorem beginChunk_results (s : State) : (beginChunk s).results = s.results := rfl
@[simp] theorem beginChunk_freeCount (s : State) : (beginChunk s).freeCount = s.freeCount := rfl
@[simp] theorem beginChunk_freeMover (s : State) : (beginChunk s).freeMover = s.freeMover := rfl
@[simp] theorem beginChunk_freeLeft (s : State) : (beginChunk s).freeLeft = s.freeLeft := rfl

/-! ## `openStream`: What `OPEN` initialises (R160). -/

@[simp] theorem openStream_state (s : State) : (openStream s).state = .idle := rfl
@[simp] theorem openStream_phase (s : State) : (openStream s).phase = s.phase := rfl
@[simp] theorem openStream_err (s : State) : (openStream s).err = .none := rfl
@[simp] theorem openStream_closeCause (s : State) : (openStream s).closeCause = s.closeCause := rfl
@[simp] theorem openStream_fhFreq (s : State) : (openStream s).fhFreq = s.fhFreq := rfl
@[simp] theorem openStream_fhDataSize (s : State) : (openStream s).fhDataSize = s.fhDataSize := rfl
@[simp] theorem openStream_fhOutSize (s : State) : (openStream s).fhOutSize = s.fhOutSize := rfl
@[simp] theorem openStream_fhFlags (s : State) : (openStream s).fhFlags = s.fhFlags := rfl
@[simp] theorem openStream_fhCtype (s : State) : (openStream s).fhCtype = s.fhCtype := rfl
@[simp] theorem openStream_chEnc (s : State) : (openStream s).chEnc = s.chEnc := rfl
@[simp] theorem openStream_chDec (s : State) : (openStream s).chDec = s.chDec := rfl
@[simp] theorem openStream_chMagic (s : State) : (openStream s).chMagic = s.chMagic := rfl
@[simp] theorem openStream_imaIndex (s : State) : (openStream s).imaIndex = 0 := rfl
@[simp] theorem openStream_imaPred (s : State) : (openStream s).imaPred = 0 := rfl
@[simp] theorem openStream_ws8Pred (s : State) : (openStream s).ws8Pred = 0x80 := rfl
@[simp] theorem openStream_payload (s : State) : (openStream s).payload = s.payload := rfl
@[simp] theorem openStream_outbuf (s : State) : (openStream s).outbuf = s.outbuf := rfl
@[simp] theorem openStream_dlvPtr (s : State) : (openStream s).dlvPtr = s.dlvPtr := rfl
@[simp] theorem openStream_chan (s : State) : (openStream s).chan = [] := rfl
@[simp] theorem openStream_sinkEnd (s : State) : (openStream s).sinkEnd = .isOpen := rfl
@[simp] theorem openStream_failSeen (s : State) : (openStream s).failSeen = false := rfl
@[simp] theorem openStream_cancelReq (s : State) : (openStream s).cancelReq = false := rfl
@[simp] theorem openStream_callerClosed (s : State) : (openStream s).callerClosed = false := rfl
@[simp] theorem openStream_srcOff (s : State) : (openStream s).srcOff = s.srcOff := rfl
@[simp] theorem openStream_chunkCount (s : State) : (openStream s).chunkCount = 0 := rfl
@[simp] theorem openStream_callerWait (s : State) : (openStream s).callerWait = s.callerWait := rfl
@[simp] theorem openStream_cfg (s : State) : (openStream s).cfg = s.cfg := rfl
@[simp] theorem openStream_src (s : State) : (openStream s).src = s.src := rfl
@[simp] theorem openStream_draw (s : State) : (openStream s).draw = s.draw := rfl
@[simp] theorem openStream_turns (s : State) : (openStream s).turns = s.turns := rfl
@[simp] theorem openStream_cmds (s : State) : (openStream s).cmds = s.cmds := rfl
@[simp] theorem openStream_results (s : State) : (openStream s).results = s.results := rfl
@[simp] theorem openStream_freeCount (s : State) : (openStream s).freeCount = s.freeCount := rfl
@[simp] theorem openStream_freeMover (s : State) : (openStream s).freeMover = s.freeMover := rfl
@[simp] theorem openStream_freeLeft (s : State) : (openStream s).freeLeft = s.freeLeft := rfl

end Sys2Proof.Machine
end

