-- ==== Sys2Proof/Laws/Ops.lean ====
section
/-! SUPPORT. What each shared operation can do, said once, and what a step runs. -/

namespace Sys2Proof.Machine

/-! ## Flow -/

@[simp] theorem Flow.bind_go (s : State) (k : State → Flow) : (Flow.go s).bind k = k s := rfl
@[simp] theorem Flow.bind_ended (s : State) (k : State → Flow) : (Flow.ended s).bind k = .ended s := rfl
@[simp] theorem Flow.state_go (s : State) : (Flow.go s).state = s := rfl
@[simp] theorem Flow.state_ended (s : State) : (Flow.ended s).state = s := rfl
@[simp] theorem Flow.out_eq (f : Flow) : f.out = .next f.state := rfl

theorem Flow.bind_assoc (f : Flow) (g h : State → Flow) : (f.bind g).bind h = f.bind fun s => (g s).bind h := by
  cases f <;> rfl

/-! ## Source and channel -/

/-- R51 with no fault drawn. -/
theorem srcRead_ok {s : State} (h : s.draw.ioFault = false) (k : Nat) (f : State → State) :
    srcRead k f s = .go { s with srcOff := s.srcOff + k } := by simp [srcRead, h]

/-- R51 with a fault drawn. -/
theorem srcRead_fault {s : State} (h : s.draw.ioFault = true) (k : Nat) (f : State → State) :
    srcRead k f s = .ended (f (loseSrcOff s)) := by simp [srcRead, h]

/-- R55 with no fault drawn. -/
theorem chanPush_ok {s : State} (h : s.draw.ioFault = false) (b : Byte) :
    chanPush b s = .go { s with chan := s.chan ++ [b] } := by simp [chanPush, h]

/-- R55 with a fault drawn. -/
theorem chanPush_fault {s : State} (h : s.draw.ioFault = true) (b : Byte) :
    chanPush b s = .ended (fail .ioFailure s) := by simp [chanPush, h]

/-- R206: `fail` is the failure entry. -/
theorem fail_failedWith (e : ErrorCode) (s : State) : FailedWith e s (fail e s) :=
  ⟨rfl, rfl, rfl, rfl, rfl, rfl⟩

/-- R206: the failure entry writes the buffers, the decoder state and the free count, so what they held
before it does not matter. -/
theorem fail_failedWith_of_eq (e : ErrorCode) (s m : State)
    (h : m = { s with
      outbuf := m.outbuf, payload := m.payload, imaIndex := m.imaIndex, imaPred := m.imaPred,
      ws8Pred := m.ws8Pred, freeCount := m.freeCount }) :
    FailedWith e s (fail e m) :=
  ⟨rfl, rfl, rfl, rfl, rfl, by rw [h]; rfl⟩

/-- R207: `openFail` is the open failure entry. -/
theorem openFail_openFailedWith (e : ErrorCode) (s : State) : OpenFailedWith e s (openFail e s) :=
  ⟨rfl, rfl, rfl⟩

/-! ## The meanings, where they are selected -/

theorem execChdr_at {s : State} (h : workerAt .chdr s) (e d : BitVec 16) (m : BitVec 32) :
    execChdr e d m s = .next (chdrFlow e d m s).state := by rw [execChdr, if_pos h]; rfl

theorem execChdrShort_at {s : State} (h : workerAt .chdr s) (c : List Byte) :
    execChdrShort c s
      = .next ((chunkHeaderRead c.length s).bind fun t => .ended (fail .malformedHeader t)).state := by
  rw [execChdrShort, if_pos h]; rfl

theorem execEos_at {s : State} (h : workerAt .chdr s) :
    execEos s
      = .next ((chunkHeaderRead 0 s).bind fun t =>
          .go { discardDecoder t with state := .closed, closeCause := .normal, sinkEnd := .eof }).state := by
  rw [execEos, if_pos h]; rfl

theorem execPayload_at {s : State} (h : workerAt .payload s) {p : List Byte} (hp : p.length ≤ s.chEnc.toNat) :
    execPayload p s
      = .next ((srcRead p.length (fail .ioFailure) s).bind fun t =>
          if p.length < t.chEnc.toNat then .ended (fail .truncatedChunk t)
          else .go { t with payload := p, phase := .decode }).state := by
  rw [execPayload, if_pos ⟨h, hp⟩]; rfl

theorem execDispatch_at {s : State} (h : workerAt .decode s) :
    execDispatch s
      = .next (if s.fhCtype = 99 then selectIma4 s
          else if s.fhCtype = 1 then selectWs8 s else selectUnsupported s).state := by
  rw [execDispatch, if_pos h]; rfl

theorem execDeliver_at {s : State} (h : workerAt .deliver s) : execDeliver s = .next (deliverFlow s).state := by
  rw [execDeliver, if_pos h]; rfl

/-- `DELIVER` with a byte left, room and no fault (R168). -/
theorem deliverFlow_push {s : State} {b : Byte} (hb : s.outbuf[s.dlvPtr.toNat]? = some b) (hr : chanHasRoom s)
    (hd : s.draw.ioFault = false) :
    deliverFlow s = .go (deliverEnd { s with chan := s.chan ++ [b], dlvPtr := s.dlvPtr + 1 }) := by
  rw [deliverFlow, hb]
  simp only
  rw [if_pos hr, chanPush_ok hd]; rfl

/-- `DELIVER` with a byte left, room and a sink fault (R55, R168). -/
theorem deliverFlow_fault {s : State} {b : Byte} (hb : s.outbuf[s.dlvPtr.toNat]? = some b) (hr : chanHasRoom s)
    (hd : s.draw.ioFault = true) : deliverFlow s = .ended (fail .ioFailure s) := by
  rw [deliverFlow, hb]
  simp only
  rw [if_pos hr, chanPush_fault hd]; rfl

/-- `DELIVER` with a byte left and no room (R168). -/
theorem deliverFlow_blocked {s : State} (h : deliverBlocked s) : deliverFlow s = .go s := by
  rw [deliverFlow, List.getElem?_eq_getElem h.1]
  simp only
  rw [if_neg h.2]

/-- `DELIVER` with no byte left (R168). -/
theorem deliverFlow_end {s : State} (h : s.outbuf.length ≤ s.dlvPtr.toNat) :
    deliverFlow s = .go (deliverEnd s) := by
  rw [deliverFlow, List.getElem?_eq_none h]

theorem execRead_at {s : State} (h : headerKnown s) (hc : s.callerClosed = false) {n : Nat} (hn : 1 ≤ n) :
    execRead n s = .next (readAdmitted n s) := by rw [execRead, if_pos ⟨h, hc, hn⟩]

/-- R175: a drawn count lies in its range. -/
theorem readCount_range {n : Nat} {s : State} (hn : 1 ≤ n) (hc : s.chan ≠ []) :
    1 ≤ readCount n s ∧ readCount n s ≤ min n s.chan.length := by
  have h : 0 < min n s.chan.length := by have := List.length_pos_iff.2 hc; omega
  have := Nat.mod_lt s.draw.readCount h
  unfold readCount; omega

/-! ## The step -/

/-- A move of the worker. -/
theorem step_worker {s : State} {d : Draw} {ts : List Turn} (h : s.turns = .worker d :: ts) :
    step s = workerMove { s with turns := ts, draw := d } := by simp [step, takeTurn, h]

/-- A move of the caller. -/
theorem step_caller {s : State} {d : Draw} {ts : List Turn} (h : s.turns = .caller d :: ts) :
    step s = callerMove { s with turns := ts, draw := d } := by simp [step, takeTurn, h]

/-- The block's reset (R230). -/
theorem step_reset {s : State} {cfg : Params} {src : List Byte} {ts : List Turn}
    (h : s.turns = .reset cfg src :: ts) :
    step s = .next (blockReset cfg src { s with turns := ts }) := by simp [step, takeTurn, h]

/-- What a move is (log 1, 2): the block's reset, or a move of an agent, the first listed or its own. -/
theorem takeTurn_cases (s : State) :
    (∃ cfg src ts, s.turns = .reset cfg src :: ts ∧ takeTurn s = (.reset cfg src, { s with turns := ts })) ∨
    ∃ a d ts n m l, (∀ u ∈ ts, u ∈ s.turns) ∧
      takeTurn s
        = (Agent.turn a d, { s with turns := ts, freeCount := n, freeMover := m, freeLeft := l }) := by
  rcases ht : s.turns with _ | ⟨u, ts⟩
  · have e : s = { s with turns := [] } := by rw [← ht]
    refine .inr ?_
    rw [takeTurn, ht, freeTurn]
    rcases hl : s.freeLeft with _ | k
    · exact ⟨_, _, [], _, _, _, by simp, by rw [e]⟩
    · exact ⟨_, _, [], _, s.freeMover, _, by simp, by rw [e]⟩
  · have hm : ∀ v ∈ ts, v ∈ u :: ts := fun v hv => List.mem_cons_of_mem _ hv
    rw [takeTurn, ht]
    rcases u with d | d | ⟨cfg, src⟩
    · exact .inr ⟨.worker, d, ts, s.freeCount, s.freeMover, s.freeLeft, hm, rfl⟩
    · exact .inr ⟨.caller, d, ts, s.freeCount, s.freeMover, s.freeLeft, hm, rfl⟩
    · exact .inl ⟨cfg, src, ts, rfl, rfl⟩

/-- A step with a move of the worker next, listed or not. -/
theorem step_of_worker {s u : State} {d : Draw} (h : takeTurn s = (.worker d, u)) :
    step s = workerMove { u with draw := d } := by rw [step, h]

/-- A step with a move of the caller next, listed or not. -/
theorem step_of_caller {s u : State} {d : Draw} (h : takeTurn s = (.caller d, u)) :
    step s = callerMove { u with draw := d } := by rw [step, h]

/-- Every step but the block's reset is a move of an agent in the state before it, but for the schedule, the
draw and the count of free values. -/
theorem step_cases {s t : State} (h : step s = .next t) :
    (∃ cfg src ts, s.turns = .reset cfg src :: ts ∧ t = blockReset cfg src { s with turns := ts }) ∨
    ∃ d ts n m l, (∀ u ∈ ts, u ∈ s.turns) ∧
      (workerMove { s with turns := ts, draw := d, freeCount := n, freeMover := m, freeLeft := l } = .next t ∨
       callerMove { s with turns := ts, draw := d, freeCount := n, freeMover := m, freeLeft := l } = .next t) := by
  rcases takeTurn_cases s with ⟨cfg, src, ts, ht, e⟩ | ⟨a, d, ts, n, m, l, hm, e⟩
  · rw [step_reset ht] at h
    injection h with h
    exact .inl ⟨cfg, src, ts, ht, h.symm⟩
  · cases a
    · rw [step_of_worker e] at h
      exact .inr ⟨d, ts, n, m, l, hm, .inl h⟩
    · rw [step_of_caller e] at h
      exact .inr ⟨d, ts, n, m, l, hm, .inr h⟩

/-- The worker's move is one of seven operations, each where R161 gives it, or nothing. -/
theorem workerMove_cases {s t : State} (h : workerMove s = .next t) :
    t = s ∨
    (s.state = .running ∧ s.cancelReq = true ∧ execCancel s = .next t) ∨
    (workerAt .chdr s ∧
      ((∃ e d m, 8 ≤ (s.src.drop s.srcOff).length ∧ execChdr e d m s = .next t) ∨
       (∃ c, c = s.src.drop s.srcOff ∧ execChdrShort c s = .next t) ∨
       execEos s = .next t)) ∨
    (workerAt .payload s ∧ execPayload (srcPeek s.chEnc.toNat s) s = .next t) ∨
    (workerAt .decode s ∧ execDispatch s = .next t) ∨
    (workerAt .deliver s ∧ ¬ deliverBlocked s ∧ execDeliver s = .next t) := by
  unfold workerMove workerFetch at h
  by_cases hr : s.state = .running
  · rw [if_pos hr] at h
    cases hc : s.cancelReq
    · rw [if_neg (by simp [hc])] at h
      rcases hp : s.phase with _ | _ | _ | _ <;> rw [hp] at h
      · refine .inr (.inr (.inl ⟨⟨hr, hc, hp⟩, ?_⟩))
        by_cases h8 : 8 ≤ (s.src.drop s.srcOff).length
        · obtain ⟨c0, c1, c2, c3, c4, c5, c6, c7, rest, e⟩ := eight_bytes _ h8
          simp only [srcPeek, e, List.take, decode, decodeChunkHeader, Decoded.instr?] at h
          exact .inl ⟨_, _, _, h8, h⟩
        · rcases he : s.src.drop s.srcOff with _ | ⟨b, bs⟩
          · simp only [srcPeek, he, List.take_nil, decode, decodeChunkHeader, Decoded.instr?] at h
            exact .inr (.inr h)
          · simp only [srcPeek] at h
            rw [List.take_of_length_le (by omega), he] at h
            simp only [decode] at h
            rw [decodeChunkHeader_short _ (by simp) (by rw [← he]; omega)] at h
            exact .inr (.inl ⟨_, rfl, h⟩)
      · refine .inr (.inr (.inr (.inl ⟨⟨hr, hc, hp⟩, ?_⟩)))
        simp only [decode, Decoded.instr?] at h
        have : (srcPeek s.chEnc.toNat s).take s.chEnc.toNat = srcPeek s.chEnc.toNat s := by
          simp [srcPeek]
        rw [this] at h
        exact h
      · exact .inr (.inr (.inr (.inr (.inl ⟨⟨hr, hc, hp⟩, h⟩))))
      · by_cases hb : deliverBlocked s
        · simp only [if_pos hb] at h
          injection h with h
          exact .inl h.symm
        · simp only [if_neg hb] at h
          exact .inr (.inr (.inr (.inr (.inr ⟨⟨hr, hc, hp⟩, hb, h⟩))))
    · rw [if_pos (by simp [hc])] at h
      exact .inr (.inl ⟨hr, rfl, h⟩)
  · rw [if_neg hr] at h
    injection h with h
    exact .inl h.symm

/-- A caller that is suspended in `READ(n)` issues its first command left, or tries that `READ` again. -/
theorem suspendedFetch_cases (n : Nat) (s : State) :
    (∃ c cs, s.cmds = c :: cs ∧ c.besideRead = true ∧ suspendedFetch n s = some (c, { s with cmds := cs })) ∨
    suspendedFetch n s = some (.read n, s) := by
  rw [suspendedFetch, nextCommand]
  rcases hc : s.cmds with _ | ⟨c, cs⟩
  · exact .inr rfl
  · simp only
    split_ifs with h
    · exact .inl ⟨c, cs, rfl, h.1, rfl⟩
    · exact .inr rfl

/-- A suspended caller's next command (R175). -/
theorem callerFetch_suspended {s : State} {n : Nat} (h : s.callerWait = some n) :
    callerFetch s = suspendedFetch n s := by rw [callerFetch, h]

/-- The next command of a caller that is not suspended. -/
theorem callerFetch_free {s : State} (h : s.callerWait = none) : callerFetch s = nextCommand s := by
  rw [callerFetch, h]

/-- The caller's first command left, if there is one. -/
theorem nextCommand_cases (s : State) :
    nextCommand s = none ∨ ∃ c cs, nextCommand s = some (c, { s with cmds := cs }) := by
  rw [nextCommand]
  split
  · exact .inr ⟨_, _, rfl⟩
  · exact .inl rfl

/-- The caller's move is one of its commands, in a state that differs only in the commands left, or
nothing. -/
theorem callerMove_cases {s t : State} (h : callerMove s = .next t) :
    t = s ∨ ∃ c cs, issue c { s with cmds := cs } = .next t := by
  have key : callerFetch s = none ∨ ∃ c cs, callerFetch s = some (c, { s with cmds := cs }) := by
    rw [callerFetch]
    split
    · rcases suspendedFetch_cases _ s with ⟨c, cs, -, -, e⟩ | e
      · exact .inr ⟨c, cs, e⟩
      · exact .inr ⟨_, s.cmds, e⟩
    · exact nextCommand_cases s
  rw [callerMove] at h
  rcases key with e | ⟨c, cs, e⟩ <;> rw [e] at h
  · injection h with h
    exact .inl h.symm
  · exact .inr ⟨c, cs, h⟩

/-- A status read that stops (R201). -/
theorem statusRead_fault {s : State} (h : srcOffLost s) :
    statusRead .srcOff s = .fault (.holdsNoValue .srcOff) := by rw [statusRead, if_pos ⟨rfl, h⟩]

/-- Every other status read answers the current value (R183). -/
theorem statusRead_next {r : StatusReg} {s : State} (h : r ≠ .srcOff ∨ ¬ srcOffLost s) :
    statusRead r s = .next (record (.status r (statusValue r s)) s) := by
  rw [statusRead, if_neg (fun hn => h.elim (· hn.1) (· hn.2))]

/-! ## The end of a run -/

/-- What one more answer does to the final answer (R180): a `READ`'s decides it, any other leaves it. -/
theorem finalAnswer_append (results : List HostResult) (r : HostResult) :
    finalAnswer (results ++ [r]) = if r.ofRead then r.ending else finalAnswer results := by
  unfold finalAnswer
  by_cases h : r.ofRead = true <;> simp [List.filter_append, h]

end Sys2Proof.Machine
end

