-- ==== Sys2Proof/Laws/Codec.lean ====
section
/-! SUPPORT. The decoders of the model against the decoders on integers (42_ima4.md, 43_ws8.md): one lemma
per operation, and one per loop. -/

namespace Sys2Proof.Machine

open Reference

/-- The two spellings of `clamp` (R10). -/
theorem clamp_eq (v lo hi : Int) (h : lo ≤ hi) : clamp v lo hi = clampInt v lo hi := by
  unfold clamp clampInt; split_ifs <;> omega

theorem clampInt_range (v lo hi : Int) (h : lo ≤ hi) : lo ≤ clampInt v lo hi ∧ clampInt v lo hi ≤ hi := by
  unfold clampInt; split_ifs <;> omega

/-- A bit of a bit string, as a quotient. -/
theorem getLsbD_eq_div {w : Nat} (x : BitVec w) (k : Nat) : x.getLsbD k = decide (x.toNat / 2 ^ k % 2 = 1) := by
  rw [BitVec.getLsbD, Nat.testBit_eq_decide_div_mod_eq]

/-- R122, the shifts as divisions. -/
theorem imaDiff_eq (step : Nat) (code : BitVec 4) : imaDiff step code = diff step code.toNat := by
  simp only [imaDiff, diff, getLsbD_eq_div, Nat.shiftRight_eq_div_pow, decide_eq_true_eq]
  norm_num

/-- The step size that the tables give an index in range (R120). -/
theorem stepSize_eq (cfg : Params) (i : Fin 89) : stepSize cfg i.val = (cfg.imaStep[i.val]'(i.isLt)).val := by
  simp [stepSize]

/-- The adjustment that the tables give a code (R121). -/
theorem adjustment_eq (cfg : Params) (code : BitVec 4) :
    adjustment cfg code.toNat = cfg.imaIndex[code.toNat]'(code.isLt) := by
  have h : code.toNat < 16 := code.isLt
  simp [adjustment, h]

/-- The entry of the delta table of a code (R140). -/
theorem delta_eq (cfg : Params) (code : BitVec 4) :
    delta cfg code.toNat = cfg.ws8Delta[code.toNat]'(code.isLt) := by
  have h : code.toNat < 16 := code.isLt
  simp [delta, h]

/-- R123 on the integers. -/
theorem imaNext_eq (cfg : Params) (index : Fin 89) (pred : BitVec 16) (code : BitVec 4) :
    ((imaNext cfg index pred code).1.val, (imaNext cfg index pred code).2.toInt)
      = imaStep cfg (index.val, pred.toInt) code.toNat := by
  simp only [imaNext, imaStep, clampIndex, stepSize_eq, adjustment_eq, imaSum, imaDiff_eq, getLsbD_eq_div,
    decide_eq_true_eq]
  congr 1
  · rw [clamp_eq _ _ _ (by decide)]
  · rw [clamp_eq _ _ _ (by decide), BitVec.toInt_ofInt_eq_self (by decide)]
    · norm_num
      congr 1
      split_ifs <;> ring
    · have := clampInt_range
      exact (clampInt_range _ (-32768) 32767 (by decide)).1
    · have := (clampInt_range (pred.toInt + if code.toNat / 2 ^ 3 % 2 = 1 then
          -(diff (cfg.imaStep[index.val]'(index.isLt)).val code.toNat : Int)
          else (diff (cfg.imaStep[index.val]'(index.isLt)).val code.toNat : Int)) (-32768) 32767 (by decide)).2
      exact Int.lt_of_le_of_lt this (by decide)

theorem values_append (a b : List Byte) : values (a ++ b) = values a ++ values b := by simp [values]

@[simp] theorem values_length (a : List Byte) : (values a).length = a.length := by simp [values]

/-- R58: a sample's bytes. -/
theorem values_sampleBytes (pred : BitVec 16) : values (sampleBytes pred) = leBytes pred.toInt := by
  have h := pred.isLt
  simp only [values, sampleBytes, leBytes, List.map_cons, List.map_nil, extract_toNat, BitVec.toInt_eq_toNat_cond]
  congr 1
  · split_ifs <;> push_cast <;> omega
  · congr 1
    split_ifs <;> push_cast <;> omega

/-- One code on the state (R123): the decoder state and the output on the integers, and what is kept. -/
theorem ima4Nib_spec (code : BitVec 4) (s : State) :
    ((ima4Nib code s).imaIndex.val, (ima4Nib code s).imaPred.toInt)
      = imaStep s.cfg (s.imaIndex.val, s.imaPred.toInt) code.toNat ∧
    values (ima4Nib code s).outbuf = values s.outbuf ++ leBytes (ima4Nib code s).imaPred.toInt ∧
    (ima4Nib code s).outbuf.length = s.outbuf.length + 2 ∧
    ima4Nib code s = { s with
      imaIndex := (ima4Nib code s).imaIndex, imaPred := (ima4Nib code s).imaPred,
      outbuf := (ima4Nib code s).outbuf } :=
  ⟨imaNext_eq .., by simp [ima4Nib, values_append, values_sampleBytes], by simp [ima4Nib, sampleBytes], rfl⟩

theorem ima4Nib_cfg (code : BitVec 4) (s : State) : (ima4Nib code s).cfg = s.cfg := rfl

/-- The bytes of a payload on the state (R125): the decoder on the integers, and what is kept. -/
theorem ima4Bytes_spec (bs : List Byte) (s : State) :
    ((ima4Bytes bs s).imaIndex.val, (ima4Bytes bs s).imaPred.toInt)
      = (imaDecode s.cfg (s.imaIndex.val, s.imaPred.toInt) bs).2 ∧
    values (ima4Bytes bs s).outbuf
      = values s.outbuf ++ (imaDecode s.cfg (s.imaIndex.val, s.imaPred.toInt) bs).1 ∧
    (ima4Bytes bs s).outbuf.length = s.outbuf.length + 4 * bs.length ∧
    ima4Bytes bs s = { s with
      imaIndex := (ima4Bytes bs s).imaIndex, imaPred := (ima4Bytes bs s).imaPred,
      outbuf := (ima4Bytes bs s).outbuf } := by
  induction bs generalizing s with
  | nil => simp [ima4Bytes, imaDecode, imaCodes, imaRun]
  | cons b bs ih =>
    obtain ⟨a1, a2, a3, a4⟩ := ima4Nib_spec (lowNibble b) s
    obtain ⟨b1, b2, b3, b4⟩ := ima4Nib_spec (highNibble b) (ima4Nib (lowNibble b) s)
    obtain ⟨c1, c2, c3, c4⟩ := ih (ima4Byte (lowNibble b) (highNibble b) s)
    simp only [ima4Bytes]
    simp only [ima4Nib_cfg, lowNibble_toNat, highNibble_toNat] at a1 b1
    have hcfg : (ima4Byte (lowNibble b) (highNibble b) s).cfg = s.cfg := rfl
    have e1 : (ima4Nib (lowNibble b) s).imaPred.toInt
        = (imaStep s.cfg (s.imaIndex.val, s.imaPred.toInt) (b.toNat % 16)).2 := by rw [← a1]
    have e2 : (ima4Byte (lowNibble b) (highNibble b) s).imaPred.toInt
        = (imaStep s.cfg (imaStep s.cfg (s.imaIndex.val, s.imaPred.toInt) (b.toNat % 16)) (b.toNat / 16)).2 := by
      rw [← a1, ← b1]; rfl
    have hrun : imaDecode s.cfg (s.imaIndex.val, s.imaPred.toInt) (b :: bs)
        = (leBytes (ima4Nib (lowNibble b) s).imaPred.toInt
            ++ leBytes (ima4Byte (lowNibble b) (highNibble b) s).imaPred.toInt
            ++ (imaDecode s.cfg ((ima4Byte (lowNibble b) (highNibble b) s).imaIndex.val,
                (ima4Byte (lowNibble b) (highNibble b) s).imaPred.toInt) bs).1,
           (imaDecode s.cfg ((ima4Byte (lowNibble b) (highNibble b) s).imaIndex.val,
                (ima4Byte (lowNibble b) (highNibble b) s).imaPred.toInt) bs).2) := by
      have : ((ima4Byte (lowNibble b) (highNibble b) s).imaIndex.val,
          (ima4Byte (lowNibble b) (highNibble b) s).imaPred.toInt)
          = imaStep s.cfg (imaStep s.cfg (s.imaIndex.val, s.imaPred.toInt) (b.toNat % 16)) (b.toNat / 16) := by
        rw [← a1, ← b1]; rfl
      rw [this, e1, e2]
      simp [imaDecode, imaCodes, imaRun]
    rw [hrun]
    refine ⟨by rw [c1, hcfg], ?_, ?_, ?_⟩
    · rw [c2, hcfg]
      have : values (ima4Byte (lowNibble b) (highNibble b) s).outbuf
          = values s.outbuf ++ (leBytes (ima4Nib (lowNibble b) s).imaPred.toInt
            ++ leBytes (ima4Byte (lowNibble b) (highNibble b) s).imaPred.toInt) := by
        rw [ima4Byte, b2, a2, List.append_assoc]
      rw [this]; simp
    · rw [c3, ima4Byte, b3, a3]; simp; omega
    · rw [c4, ima4Byte, b4, a4]

/-- One delta code on the integers (R143). -/
theorem ws8Next_eq (cfg : Params) (pred : BitVec 8) (code : BitVec 4) :
    ((ws8Next cfg pred code).toNat : Int) = ws8Step cfg pred.toNat code.toNat := by
  have h := clampInt_range ((pred.toNat : Int) + cfg.ws8Delta[code.toNat]'(code.isLt)) 0 255 (by decide)
  simp only [ws8Next, ws8Step, delta_eq, clamp_eq _ _ _ (by decide : (0 : Int) ≤ 255), BitVec.toNat_ofInt]
  omega

/-- R144, where a byte fits. -/
theorem ws8Emit_room {s : State} (h : s.outbuf.length ≠ s.chDec.toNat) (v : Byte) :
    ws8Emit v s = .go { s with outbuf := s.outbuf ++ [v] } := by simp [ws8Emit, h, outAppend]

/-- R144, where it does not. -/
theorem ws8Emit_full {s : State} (h : s.outbuf.length = s.chDec.toNat) (v : Byte) :
    ws8Emit v s = .ended (fail .sizeMismatch s) := by simp [ws8Emit, h]

/-- How a part of a WS8 chunk that emits the bytes `out` and leaves the predictor `p` ends (R144): it goes
on with them where they fit in `CH_DEC`, and otherwise the stream fails. -/
def Ws8Ends (f : Flow) (s : State) (out : List Int) (p : Int) : Prop :=
  (s.outbuf.length + out.length ≤ s.chDec.toNat →
    ∃ t, f = .go t ∧ values t.outbuf = values s.outbuf ++ out ∧ (t.ws8Pred.toNat : Int) = p ∧
      t = { s with ws8Pred := t.ws8Pred, outbuf := t.outbuf }) ∧
  (s.chDec.toNat < s.outbuf.length + out.length → ∃ t, f = .ended t ∧ FailedWith .sizeMismatch s t)

/-- The failure entry from a state that a part of a WS8 chunk left is the one from the state before it. -/
theorem FailedWith.of_ws8 {e : ErrorCode} {s m t : State}
    (h : m = { s with ws8Pred := m.ws8Pred, outbuf := m.outbuf }) (hf : FailedWith e m t) :
    FailedWith e s t :=
  ⟨hf.err, hf.state, hf.sinkEnd, hf.outbuf, hf.payload, by rw [hf.frame, h]⟩

/-- Two parts in a row emit one after the other. -/
theorem Ws8Ends.bind {f : Flow} {k : State → Flow} {s : State} {out1 out2 : List Int} {p1 p2 : Int}
    (h1 : Ws8Ends f s out1 p1) (_hs : s.outbuf.length ≤ s.chDec.toNat)
    (h2 : ∀ t, t = { s with ws8Pred := t.ws8Pred, outbuf := t.outbuf } → (t.ws8Pred.toNat : Int) = p1 →
      t.outbuf.length ≤ t.chDec.toNat → Ws8Ends (k t) t out2 p2) :
    Ws8Ends (f.bind k) s (out1 ++ out2) p2 := by
  by_cases hfit : s.outbuf.length + out1.length ≤ s.chDec.toNat
  · obtain ⟨t, rfl, hv, hp, hfr⟩ := h1.1 hfit
    have hl : t.outbuf.length = s.outbuf.length + out1.length := by
      rw [← values_length, hv]; simp
    have hd : t.chDec = s.chDec := by rw [hfr]
    have h3 := h2 t hfr hp (by rw [hl, hd]; exact hfit)
    constructor
    · intro hfit2
      obtain ⟨u, hu, hv2, hp2, hfr2⟩ := h3.1 (by rw [hl, hd]; simp at hfit2; omega)
      exact ⟨u, hu, by rw [hv2, hv, List.append_assoc], hp2, by rw [hfr2, hfr]⟩
    · intro hno
      obtain ⟨u, hu, hf⟩ := h3.2 (by rw [hl, hd]; simp at hno; omega)
      exact ⟨u, hu, .of_ws8 hfr hf⟩
  · obtain ⟨t, rfl, hf⟩ := h1.2 (by omega)
    exact ⟨fun hc => absurd hc (by simp; omega), fun _ => ⟨t, rfl, hf⟩⟩

/-- One emit (R144) after the predictor was set to what is emitted. -/
theorem ws8Emit_ends (v : Byte) (s : State) (_hs : s.outbuf.length ≤ s.chDec.toNat) (p : BitVec 8) :
    Ws8Ends (ws8Emit v { s with ws8Pred := p }) s [(v.toNat : Int)] p.toNat := by
  constructor
  · intro hfit
    simp at hfit
    exact ⟨_, ws8Emit_room (by simp; omega) v, by simp [values], rfl, rfl⟩
  · intro hno
    simp at hno
    exact ⟨_, ws8Emit_full (by simp; omega) v, rfl, rfl, rfl, rfl, rfl, rfl⟩

/-- A run (R142). -/
theorem ws8Repeat_ends (n : Nat) (s : State) (hs : s.outbuf.length ≤ s.chDec.toNat) :
    Ws8Ends (ws8Repeat n s) s (List.replicate n (s.ws8Pred.toNat : Int)) s.ws8Pred.toNat := by
  induction n generalizing s with
  | zero => exact ⟨fun _ => ⟨s, rfl, by simp, rfl, rfl⟩, fun h => absurd h (by simp; omega)⟩
  | succ n ih =>
    rw [List.replicate_succ, ← List.singleton_append]
    refine Ws8Ends.bind (ws8Emit_ends s.ws8Pred s hs s.ws8Pred) hs fun t hfr hp ht => ?_
    have := ih t ht
    rwa [hp] at this

/-- A delta code (R143). -/
theorem ws8Code_ends (code : BitVec 4) (s : State) (hs : s.outbuf.length ≤ s.chDec.toNat) :
    Ws8Ends (ws8Code code s) s [ws8Step s.cfg s.ws8Pred.toNat code.toNat]
      (ws8Step s.cfg s.ws8Pred.toNat code.toNat) := by
  rw [← ws8Next_eq]
  exact ws8Emit_ends _ s hs _

/-- A delta byte (R143). -/
theorem ws8Delta_ends (code1 : BitVec 3) (code2 : BitVec 4) (s : State)
    (hs : s.outbuf.length ≤ s.chDec.toNat) :
    Ws8Ends (ws8Delta code1 code2 s) s
      [ws8Step s.cfg s.ws8Pred.toNat code1.toNat,
       ws8Step s.cfg (ws8Step s.cfg s.ws8Pred.toNat code1.toNat) code2.toNat]
      (ws8Step s.cfg (ws8Step s.cfg s.ws8Pred.toNat code1.toNat) code2.toNat) := by
  have h1 := ws8Code_ends (code1.setWidth 4) s hs
  have hw : (code1.setWidth 4).toNat = code1.toNat := by
    have := code1.isLt; rw [BitVec.toNat_setWidth]; omega
  rw [hw] at h1
  refine Ws8Ends.bind (out1 := [_]) (out2 := [_]) h1 hs fun t hfr hp ht => ?_
  have h2 := ws8Code_ends code2 t ht
  have hc : t.cfg = s.cfg := by rw [hfr]
  rwa [hp, hc] at h2

/-- A command byte (R141). -/
theorem ws8Byte_ends (b : Byte) (s : State) (hs : s.outbuf.length ≤ s.chDec.toNat) :
    Ws8Ends (ws8Byte b s) s (ws8Decode s.cfg s.ws8Pred.toNat [b]).1 (ws8Decode s.cfg s.ws8Pred.toNat [b]).2 := by
  by_cases hb : 128 ≤ b.toNat
  · rw [ws8Byte, if_pos ((bit7_iff b).2 hb)]
    have h := ws8Repeat_ends (b.extractLsb' 0 7).toNat s hs
    have hn : (b.extractLsb' 0 7).toNat = b.toNat - 128 := by rw [extract_toNat]; omega
    rw [hn] at h
    simpa [ws8Decode, hb, ws8Run, hn] using h
  · rw [ws8Byte, if_neg (mt (bit7_iff b).1 hb)]
    have h := ws8Delta_ends (b.extractLsb' 4 3) (b.extractLsb' 0 4) s hs
    have h1 : (b.extractLsb' 4 3).toNat = b.toNat / 16 := by rw [extract_toNat]; omega
    have h2 : (b.extractLsb' 0 4).toNat = b.toNat % 16 := by rw [extract_toNat]; omega
    rw [h1, h2] at h
    simpa [ws8Decode, hb] using h

/-- The decoder on integers, byte by byte. -/
theorem ws8Decode_cons (cfg : Params) (p : Int) (b : Byte) (bs : List Byte) :
    ws8Decode cfg p (b :: bs)
      = ((ws8Decode cfg p [b]).1 ++ (ws8Decode cfg (ws8Decode cfg p [b]).2 bs).1,
         (ws8Decode cfg (ws8Decode cfg p [b]).2 bs).2) := by
  by_cases hb : 128 ≤ b.toNat <;> simp [ws8Decode, hb]

/-- The bytes of a payload (R145). -/
theorem ws8Bytes_ends (bs : List Byte) (s : State) (hs : s.outbuf.length ≤ s.chDec.toNat) :
    Ws8Ends (ws8Bytes bs s) s (ws8Decode s.cfg s.ws8Pred.toNat bs).1 (ws8Decode s.cfg s.ws8Pred.toNat bs).2 := by
  induction bs generalizing s with
  | nil => exact ⟨fun _ => ⟨s, rfl, by simp [ws8Decode], rfl, rfl⟩, fun h => absurd h (by simp [ws8Decode]; omega)⟩
  | cons b bs ih =>
    rw [ws8Decode_cons]
    refine Ws8Ends.bind (ws8Byte_ends b s hs) hs fun t hfr hp ht => ?_
    have h := ih t ht
    have hc : t.cfg = s.cfg := by rw [hfr]
    rwa [hp, hc] at h

/-! ## Payloads joined (44_sequencer.md R182) -/

/-- The number of bytes that WS8 commands give does not depend on the predictor (R142, R143). -/
theorem ws8Decode_length (cfg : Params) (p : Int) (bs : List Byte) :
    (ws8Decode cfg p bs).1.length = ws8Size bs := by
  induction bs generalizing p with
  | nil => rfl
  | cons b bs ih => simp only [ws8Decode, ws8Size]; split_ifs <;> simp [ih] <;> omega

theorem ws8Size_append (a b : List Byte) : ws8Size (a ++ b) = ws8Size a + ws8Size b := by
  induction a with
  | nil => simp [ws8Size]
  | cons x a ih => simp [ws8Size, ih]; omega

/-- Commands decode one after the other, each from the predictor the one before it left. -/
theorem ws8Decode_append (cfg : Params) (p : Int) (a b : List Byte) :
    ws8Decode cfg p (a ++ b)
      = ((ws8Decode cfg p a).1 ++ (ws8Decode cfg (ws8Decode cfg p a).2 b).1,
         (ws8Decode cfg (ws8Decode cfg p a).2 b).2) := by
  induction a generalizing p with
  | nil => simp [ws8Decode]
  | cons x a ih => simp only [List.cons_append, ws8Decode]; split_ifs <;> simp [ih]

theorem imaRun_append (cfg : Params) (st : Nat × Int) (a b : List Nat) :
    imaRun cfg st (a ++ b)
      = ((imaRun cfg st a).1 ++ (imaRun cfg (imaRun cfg st a).2 b).1, (imaRun cfg (imaRun cfg st a).2 b).2) := by
  induction a generalizing st with
  | nil => simp [imaRun]
  | cons c a ih => simp [imaRun, ih]

/-- IMA4 bytes decode one after the other, each from the state the one before it left. -/
theorem imaDecode_append (cfg : Params) (st : Nat × Int) (a b : List Byte) :
    imaDecode cfg st (a ++ b)
      = ((imaDecode cfg st a).1 ++ (imaDecode cfg (imaDecode cfg st a).2 b).1,
         (imaDecode cfg (imaDecode cfg st a).2 b).2) := by
  simp [imaDecode, imaCodes, imaRun_append]

end Sys2Proof.Machine
end

