-- ==== Sys2Proof/Laws/PerInstr.lean ====
section
/-! SUPPORT. A statement about every operation as syntax, with one lemma per constructor: an operation that
does not end the source is encoded in as many bytes as the block's read of its unit asks for. -/

namespace Sys2Proof.Laws.EncodedBytes

/-- How many bytes the block's read of a unit asks for (20_memory.md R52; 30_encoding.md R70 to R76). -/
def unitBytes : InputUnit → Nat
  | .fileHeader => 12
  | .chunkHeader => 8
  | .payload n => n
  | .codecSelect => 1
  | .ima4Byte => 1
  | .ima4Nib => 1
  | .ws8Byte => 1
  | .ws8Command => 1

/-- The encoding of an operation fills its unit exactly; a short read has fewer bytes than its unit (R79). -/
def Statement (i : Instr) : Prop :=
  ∀ u bs, i.wellFormed = true → encode i = some (u, bs) →
    if i.endsSource then bs.length < unitBytes u else bs.length = unitBytes u

theorem fhdr (f : BitVec 16) (d o : BitVec 32) (fl c : BitVec 8) : Statement (.fhdr f d o fl c) := by
  intro u bs _ h; simp only [encode, Option.some.injEq, Prod.mk.injEq] at h; obtain ⟨rfl, rfl⟩ := h; rfl
theorem fhdrShort (l : List Byte) : Statement (.fhdrShort l) := by
  intro u bs hw h; simp only [encode, Option.some.injEq, Prod.mk.injEq] at h; obtain ⟨rfl, rfl⟩ := h
  simpa [Instr.wellFormed, Instr.endsSource, unitBytes] using hw
theorem chdr (e d : BitVec 16) (m : BitVec 32) : Statement (.chdr e d m) := by
  intro u bs _ h; simp only [encode, Option.some.injEq, Prod.mk.injEq] at h; obtain ⟨rfl, rfl⟩ := h; rfl
theorem chdrShort (l : List Byte) : Statement (.chdrShort l) := by
  intro u bs hw h; simp only [encode, Option.some.injEq, Prod.mk.injEq] at h; obtain ⟨rfl, rfl⟩ := h
  simp only [Instr.wellFormed, Bool.and_eq_true, decide_eq_true_eq] at hw
  exact hw.2
theorem eos : Statement .eos := by
  intro u bs _ h; simp only [encode, Option.some.injEq, Prod.mk.injEq] at h; obtain ⟨rfl, rfl⟩ := h; decide
theorem payload (p : List Byte) : Statement (.payload p) := by
  intro u bs _ h; simp only [encode, Option.some.injEq, Prod.mk.injEq] at h; obtain ⟨rfl, rfl⟩ := h; rfl
theorem dispatch : Statement .dispatch := fun _ _ _ h => by cases h
theorem selWs8 : Statement .selWs8 := by
  intro u bs _ h; simp only [encode, Option.some.injEq, Prod.mk.injEq] at h; obtain ⟨rfl, rfl⟩ := h; rfl
theorem selIma4 : Statement .selIma4 := by
  intro u bs _ h; simp only [encode, Option.some.injEq, Prod.mk.injEq] at h; obtain ⟨rfl, rfl⟩ := h; rfl
theorem selUnsupported (t : BitVec 8) : Statement (.selUnsupported t) := by
  intro u bs _ h; simp only [encode, Option.some.injEq, Prod.mk.injEq] at h; obtain ⟨rfl, rfl⟩ := h; rfl
theorem ima4Chunk : Statement .ima4Chunk := fun _ _ _ h => by cases h
theorem ima4Byte (lo hi : BitVec 4) : Statement (.ima4Byte lo hi) := by
  intro u bs _ h; simp only [encode, Option.some.injEq, Prod.mk.injEq] at h; obtain ⟨rfl, rfl⟩ := h; rfl
theorem ima4Nib (c : BitVec 4) : Statement (.ima4Nib c) := by
  intro u bs _ h; simp only [encode, Option.some.injEq, Prod.mk.injEq] at h; obtain ⟨rfl, rfl⟩ := h; rfl
theorem ws8Chunk : Statement .ws8Chunk := fun _ _ _ h => by cases h
theorem ws8Byte (b : Byte) : Statement (.ws8Byte b) := by
  intro u bs _ h; simp only [encode, Option.some.injEq, Prod.mk.injEq] at h; obtain ⟨rfl, rfl⟩ := h; rfl
theorem ws8Run (n : BitVec 7) : Statement (.ws8Run n) := by
  intro u bs _ h; simp only [encode, Option.some.injEq, Prod.mk.injEq] at h; obtain ⟨rfl, rfl⟩ := h; rfl
theorem ws8Delta (a : BitVec 3) (b : BitVec 4) : Statement (.ws8Delta a b) := by
  intro u bs _ h; simp only [encode, Option.some.injEq, Prod.mk.injEq] at h; obtain ⟨rfl, rfl⟩ := h; rfl
theorem ws8Emit (v : Byte) : Statement (.ws8Emit v) := fun _ _ _ h => by cases h
theorem deliver : Statement .deliver := fun _ _ _ h => by cases h
theorem cancel : Statement .cancel := fun _ _ _ h => by cases h
theorem openCmd : Statement .openCmd := fun _ _ _ h => by cases h
theorem startCmd : Statement .startCmd := fun _ _ _ h => by cases h
theorem readCmd (n : Nat) : Statement (.readCmd n) := fun _ _ _ h => by cases h
theorem closeCmd : Statement .closeCmd := fun _ _ _ h => by cases h
theorem bitrate : Statement .bitrate := fun _ _ _ h => by cases h
theorem channels : Statement .channels := fun _ _ _ h => by cases h

end Sys2Proof.Laws.EncodedBytes
end

