-- ==== Sys2Proof/Laws/Run.lean ====
section
/-! SUPPORT. Runs of several steps, and the worker's move in each phase of its loop (44_sequencer.md R161). -/

namespace Sys2Proof.Machine

theorem run_zero (s : State) : Host.Core.run Sys2Proof.core 0 s = .next s := rfl

/-- `Host.Core.run`'s step, over the states of the core. -/
theorem run_succ_core (k : Nat) (s t : Sys2Proof.core.State) (h : Sys2Proof.core.step s = .next t) :
    Host.Core.run Sys2Proof.core (k + 1) s = Host.Core.run Sys2Proof.core k t := by
  rw [Host.Core.run, h]

theorem run_succ {s t : State} (k : Nat) (h : step s = .next t) :
    Host.Core.run Sys2Proof.core (k + 1) s = Host.Core.run Sys2Proof.core k t := run_succ_core k s t h

theorem run_succ_next_core (k : Nat) (s t : Sys2Proof.core.State)
    (h : Host.Core.run Sys2Proof.core (k + 1) s = .next t) : ∃ u, Sys2Proof.core.step s = .next u := by
  rw [Host.Core.run] at h
  split at h
  · exact ⟨_, by assumption⟩
  · cases h
  · cases h

/-- A run that gives a next state goes on from it. -/
theorem run_add (a b : Nat) (s t : State) (h : Host.Core.run Sys2Proof.core a s = .next t) :
    Host.Core.run Sys2Proof.core (a + b) s = Host.Core.run Sys2Proof.core b t := by
  induction a generalizing s with
  | zero => rw [run_zero] at h; injection h with h; subst h; simp
  | succ a ih =>
    rw [show a + 1 + b = (a + b) + 1 by omega]
    obtain ⟨u, hu⟩ := run_succ_next_core _ _ _ h
    rw [run_succ _ hu] at h ⊢
    exact ih _ h

theorem workerMove_of_fetch {s : State} {i : Instr} (h : workerFetch s = some i) : workerMove s = exec i s := by
  rw [workerMove, h]

theorem workerMove_chdr {s : State} (h : workerAt .chdr s) {i : Instr}
    (hd : Decoded.instr? (decode .chunkHeader (srcPeek 8 s)) = some i) : workerMove s = exec i s :=
  workerMove_of_fetch (by rw [workerFetch, if_pos h.1, if_neg (by simp [h.2.1]), h.2.2]; exact hd)

theorem workerMove_payload {s : State} (h : workerAt .payload s) :
    workerMove s = exec (.payload (srcPeek s.chEnc.toNat s)) s :=
  workerMove_of_fetch (by
    rw [workerFetch, if_pos h.1, if_neg (by simp [h.2.1]), h.2.2]
    simp [decode, Decoded.instr?, srcPeek])

theorem workerMove_decode {s : State} (h : workerAt .decode s) : workerMove s = exec .dispatch s :=
  workerMove_of_fetch (by rw [workerFetch, if_pos h.1, if_neg (by simp [h.2.1]), h.2.2])

theorem workerMove_deliver {s : State} (h : workerAt .deliver s) (hb : ¬ deliverBlocked s) :
    workerMove s = exec .deliver s :=
  workerMove_of_fetch (by rw [workerFetch, if_pos h.1, if_neg (by simp [h.2.1]), h.2.2]; simp only [if_neg hb])

end Sys2Proof.Machine
end

