-- ==== Sys2Proof/Laws/Step.lean ====
section
/-! SUPPORT. Everything a move of the worker and a move of the caller can do to the state, said once as two
inductive relations: each rule about every step is then a case analysis of them. -/

namespace Sys2Proof.Machine

/-- What a move of the worker does (R161): it waits, or it takes one of the steps of its loop. -/
inductive WorkerEffect (s : State) : State → Prop where
  /-- No step (R161). -/
  | waits : WorkerEffect s s
  /-- R178. -/
  | cancelled (h : s.state = .running) (hc : s.cancelReq = true) :
    WorkerEffect s
      { discardDecoder s with state := .closed, closeCause := .cancelled, outbuf := [], payload := [] }
  /-- R102. -/
  | header (e d : BitVec 16) (m : BitVec 32) (h : workerAt .chdr s) (ho : s.srcOff + 8 ≤ s.src.length) :
    WorkerEffect s
      { beginChunk s with chEnc := e, chDec := d, chMagic := m, srcOff := s.srcOff + 8, phase := .payload }
  /-- R162. -/
  | endOfSource (h : workerAt .chdr s) :
    WorkerEffect s
      { discardDecoder (beginChunk s) with state := .closed, closeCause := .normal, sinkEnd := .eof }
  /-- R164. -/
  | payloadRead (p : List Byte) (h : workerAt .payload s) (hp : p.length = s.chEnc.toNat)
      (ho : p.length = 0 ∨ s.srcOff + p.length ≤ s.src.length) :
    WorkerEffect s { s with payload := p, phase := .decode, srcOff := s.srcOff + p.length }
  /-- R165: the chunk's bytes, and the decoder state of the codec that `FH_CTYPE` selects. -/
  | decoded (t : State) (h : workerAt .decode s)
      (ht : t = { s with
        imaIndex := t.imaIndex, imaPred := t.imaPred, ws8Pred := t.ws8Pred, outbuf := t.outbuf })
      (hl : s.outbuf = [] → s.payload.length = s.chEnc.toNat → t.outbuf.length = s.chDec.toNat)
      (hi : s.fhCtype ≠ 99 → t.imaIndex = s.imaIndex ∧ t.imaPred = s.imaPred)
      (hw : s.fhCtype ≠ 1 → t.ws8Pred = s.ws8Pred) :
    WorkerEffect s { t with dlvPtr := 0, phase := .deliver }
  /-- R168, one byte. -/
  | pushed (b : Byte) (h : workerAt .deliver s) (hb : s.outbuf[s.dlvPtr.toNat]? = some b) (hr : chanHasRoom s) :
    WorkerEffect s (deliverEnd { s with chan := s.chan ++ [b], dlvPtr := s.dlvPtr + 1 })
  /-- R168, no byte left. -/
  | delivered (h : workerAt .deliver s) (hb : s.outbuf.length ≤ s.dlvPtr.toNat) : WorkerEffect s (deliverEnd s)
  /-- R206: a failure, with what its step wrote before it. -/
  | failed (e : ErrorCode) (m : State) (h : s.state = .running) (hc : s.cancelReq = false)
      (hm : m = { s with
        outbuf := m.outbuf, payload := m.payload, dlvPtr := m.dlvPtr, chEnc := m.chEnc, chDec := m.chDec,
        chMagic := m.chMagic, srcOff := m.srcOff, imaIndex := m.imaIndex, imaPred := m.imaPred,
        ws8Pred := m.ws8Pred, freeCount := m.freeCount })
      (he : e ≠ .none)
      (ho : s.srcOff ≤ m.srcOff ∧ (s.srcOff ≤ s.src.length → m.srcOff ≤ s.src.length) ∨
        e = .ioFailure ∧ s.phase ≠ .deliver) :
    WorkerEffect s (fail e m)

/-- What a move of the caller does (R183). -/
inductive CallerEffect (s : State) : State → Prop where
  /-- No command, or a `CLOSE` without effect (R177). -/
  | nothing : CallerEffect s s
  /-- R160. -/
  | opened (f : BitVec 16) (d o : BitVec 32) (fl c : BitVec 8) (h : s.state = .noStream)
      (ho : s.srcOff + 12 ≤ s.src.length) :
    CallerEffect s
      (openStream { s with
        fhFreq := f, fhDataSize := d, fhOutSize := o, fhFlags := fl, fhCtype := c, srcOff := s.srcOff + 12 })
  /-- R207. -/
  | openFailed (e : ErrorCode) (m : State) (h : s.state = .noStream)
      (hm : m = { s with srcOff := m.srcOff, freeCount := m.freeCount }) (he : e ≠ .none)
      (ho : s.srcOff ≤ m.srcOff ∧ (s.srcOff ≤ s.src.length → m.srcOff ≤ s.src.length) ∨ e = .ioFailure) :
    CallerEffect s (openFail e m)
  /-- R170. -/
  | started (h : s.state = .idle) (hc : s.callerClosed = false) :
    CallerEffect s { s with state := .running, phase := .chdr }
  /-- R175: bytes. -/
  | popped (k : Nat) (h : headerKnown s) (hc : s.callerClosed = false) (hf : s.failSeen = false)
      (hb : s.chan ≠ []) :
    CallerEffect s (chanPop k s)
  /-- R175 (b): the failure surfaces. -/
  | surfaced (h : headerKnown s) (hc : s.callerClosed = false) (hf : s.failSeen = false)
      (ha : s.sinkEnd = .abnormal) :
    CallerEffect s (answer (.error s.err) { s with failSeen := true, chan := [] })
  /-- R175, R176: `END`, or the same `ERROR` again. -/
  | ended (r : HostResult) (h : headerKnown s) (hc : s.callerClosed = false)
      (hr : (r = .error s.err ∧ s.failSeen = true) ∨
        (r = .endOfStream ∧ s.failSeen = false ∧ s.sinkEnd = .eof ∧ s.chan = [])) :
    CallerEffect s (answer r s)
  /-- R104, R105, R183: a status function or a status read. -/
  | answered (r : HostResult) (hr : r.ofRead = false) : CallerEffect s (record r s)
  /-- R175: the caller is suspended. -/
  | suspended (n : Nat) (h : headerKnown s) (hc : s.callerClosed = false) (hn : 1 ≤ n) (hb : readBlocked s) :
    CallerEffect s { s with callerWait := some n }
  /-- R177. -/
  | closed (h : headerKnown s) (hc : s.callerClosed = false) :
    CallerEffect s (closeStream { s with callerClosed := true, chan := [], callerWait := none })

/-- `SEL_IMA4`'s arm (R125, R165). -/
theorem selectIma4_effect {s : State} (h : codecAt 99 s) : WorkerEffect s (selectIma4 s).state := by
  rw [selectIma4, ima4Chunk]
  by_cases hs : s.chDec.toNat = 4 * s.chEnc.toNat
  · rw [if_neg (by simp [hs])]
    obtain ⟨_, _, hlen, hfr⟩ := ima4Bytes_spec (s.payload.take s.chEnc.toNat) s
    refine WorkerEffect.decoded (ima4Bytes (s.payload.take s.chEnc.toNat) s) h.1 ?_ (fun ho hp => ?_)
      (fun hn => absurd h.2 hn) (fun _ => by rw [hfr])
    · rw [hfr]
    · rw [hlen, ho, ← hp, List.take_length, hp, hs]; simp
  · rw [if_pos hs]
    exact .failed _ s h.1.1 h.1.2.1 rfl (by simp) (.inl ⟨le_refl _, id⟩)

/-- How the payload of a WS8 chunk ends, without the integers: it goes on with the predictor and the output
changed, or the stream fails. -/
theorem ws8Bytes_flow (bs : List Byte) (s : State) :
    (∃ t, ws8Bytes bs s = .go t ∧ t = { s with ws8Pred := t.ws8Pred, outbuf := t.outbuf }) ∨
    (∃ m, ws8Bytes bs s = .ended (fail .sizeMismatch m) ∧
      m = { s with ws8Pred := m.ws8Pred, outbuf := m.outbuf }) := by
  have emit : ∀ (v : Byte) (s : State),
      (∃ t, ws8Emit v s = .go t ∧ t = { s with ws8Pred := t.ws8Pred, outbuf := t.outbuf }) ∨
      (∃ m, ws8Emit v s = .ended (fail .sizeMismatch m) ∧
        m = { s with ws8Pred := m.ws8Pred, outbuf := m.outbuf }) := fun v s => by
    by_cases hf : s.outbuf.length = s.chDec.toNat
    · exact .inr ⟨s, ws8Emit_full hf v, rfl⟩
    · exact .inl ⟨_, ws8Emit_room hf v, rfl⟩
  have seq : ∀ (f : Flow) (k : State → Flow) (s : State),
      ((∃ t, f = .go t ∧ t = { s with ws8Pred := t.ws8Pred, outbuf := t.outbuf }) ∨
        (∃ m, f = .ended (fail .sizeMismatch m) ∧ m = { s with ws8Pred := m.ws8Pred, outbuf := m.outbuf })) →
      (∀ t, (∃ u, k t = .go u ∧ u = { t with ws8Pred := u.ws8Pred, outbuf := u.outbuf }) ∨
        (∃ m, k t = .ended (fail .sizeMismatch m) ∧ m = { t with ws8Pred := m.ws8Pred, outbuf := m.outbuf })) →
      (∃ t, f.bind k = .go t ∧ t = { s with ws8Pred := t.ws8Pred, outbuf := t.outbuf }) ∨
        (∃ m, f.bind k = .ended (fail .sizeMismatch m) ∧
          m = { s with ws8Pred := m.ws8Pred, outbuf := m.outbuf }) := fun f k s h1 h2 => by
    rcases h1 with ⟨t, rfl, ht⟩ | ⟨m, rfl, hm⟩
    · rcases h2 t with ⟨u, hu, he⟩ | ⟨m, hm, he⟩
      · exact .inl ⟨u, hu, by rw [he, ht]⟩
      · exact .inr ⟨m, hm, by rw [he, ht]⟩
    · exact .inr ⟨m, rfl, hm⟩
  have rep : ∀ (n : Nat) (s : State),
      (∃ t, ws8Repeat n s = .go t ∧ t = { s with ws8Pred := t.ws8Pred, outbuf := t.outbuf }) ∨
      (∃ m, ws8Repeat n s = .ended (fail .sizeMismatch m) ∧
        m = { s with ws8Pred := m.ws8Pred, outbuf := m.outbuf }) := fun n => by
    induction n with
    | zero => exact fun s => .inl ⟨s, rfl, rfl⟩
    | succ n ih => exact fun s => seq _ _ s (emit _ s) ih
  have code : ∀ (c : BitVec 4) (s : State),
      (∃ t, ws8Code c s = .go t ∧ t = { s with ws8Pred := t.ws8Pred, outbuf := t.outbuf }) ∨
      (∃ m, ws8Code c s = .ended (fail .sizeMismatch m) ∧
        m = { s with ws8Pred := m.ws8Pred, outbuf := m.outbuf }) := fun c s => by
    rcases emit (ws8Next s.cfg s.ws8Pred c) { s with ws8Pred := ws8Next s.cfg s.ws8Pred c } with
      ⟨t, h, ht⟩ | ⟨m, h, hm⟩
    · exact .inl ⟨t, h, by rw [ht]⟩
    · exact .inr ⟨m, h, by rw [hm]⟩
  induction bs generalizing s with
  | nil => exact .inl ⟨s, rfl, rfl⟩
  | cons b bs ih =>
    refine seq _ _ s ?_ ih
    rw [ws8Byte]
    split_ifs
    · exact rep _ s
    · exact seq _ _ s (code _ s) (code _)

/-- `SEL_WS8`'s arm (R145, R165). -/
theorem selectWs8_effect {s : State} (h : codecAt 1 s) : WorkerEffect s (selectWs8 s).state := by
  rw [selectWs8, ws8Chunk]
  rcases ws8Bytes_flow (s.payload.take s.chEnc.toNat) s with ⟨t, e, ht⟩ | ⟨m, e, hm⟩ <;> rw [e]
  · simp only [Flow.bind_go]
    have hd : t.chDec = s.chDec := by rw [ht]
    by_cases hl : t.outbuf.length = t.chDec.toNat
    · rw [if_neg (by simp [hl])]
      refine WorkerEffect.decoded t h.1 ?_ (fun _ _ => by rw [hl, hd]) (fun _ => by rw [ht]; exact ⟨rfl, rfl⟩)
        (fun hn => absurd h.2 hn)
      rw [ht]
    · rw [if_pos hl]
      exact .failed _ t h.1.1 h.1.2.1 (by rw [ht]) (by simp) (.inl (by rw [ht]; exact ⟨le_refl _, id⟩))
  · exact .failed _ m h.1.1 h.1.2.1 (by rw [hm]) (by simp) (.inl (by rw [hm]; exact ⟨le_refl _, id⟩))

/-- Every move of the worker has one of the effects. -/
theorem workerMove_effect {s t : State} (h : workerMove s = .next t) : WorkerEffect s t := by
  rcases workerMove_cases h with rfl | ⟨hr, hc, h⟩ | ⟨hw, h⟩ | ⟨hw, h⟩ | ⟨hw, h⟩ | ⟨hw, -, h⟩
  · exact .waits
  · rw [execCancel, if_pos ⟨hr, hc⟩] at h
    injection h with h
    subst h
    exact .cancelled hr hc
  · have hph : s.phase ≠ .deliver := by rw [hw.2.2]; simp
    cases hd : s.draw.ioFault
    · have hread : ∀ k, chunkHeaderRead k s = .go { beginChunk s with srcOff := s.srcOff + k } := fun k => by
        rw [chunkHeaderRead, srcRead_ok (by simpa using hd)]; rfl
      rcases h with ⟨e, d, m, h8, h⟩ | ⟨c, rfl, h⟩ | h
      · rw [execChdr_at hw, chdrFlow, hread] at h
        injection h with h
        simp only [Flow.bind_go] at h
        have ho : s.srcOff + 8 ≤ s.src.length := by simp at h8; omega
        split_ifs at h
        · subst h
          exact .failed _ { beginChunk s with srcOff := s.srcOff + 8, chEnc := e, chDec := d, chMagic := m }
            hw.1 hw.2.1 rfl (by simp) (.inl ⟨Nat.le_add_right .., fun _ => ho⟩)
        · subst h
          exact .header e d m hw ho
      · rw [execChdrShort_at hw, hread] at h
        injection h with h
        subst h
        exact .failed _ { beginChunk s with srcOff := s.srcOff + (s.src.drop s.srcOff).length }
          hw.1 hw.2.1 rfl (by simp) (.inl ⟨Nat.le_add_right .., fun hle => by simp; omega⟩)
      · rw [execEos_at hw, hread] at h
        injection h with h
        subst h
        exact .endOfSource hw
    · have hread : ∀ k, chunkHeaderRead k s = .ended (fail .ioFailure (loseSrcOff (beginChunk s))) := fun k => by
        rw [chunkHeaderRead, srcRead_fault (by simpa using hd)]
      have : t = fail .ioFailure (loseSrcOff (beginChunk s)) := by
        rcases h with ⟨e, d, m, -, h⟩ | ⟨c, -, h⟩ | h
        · rw [execChdr_at hw, chdrFlow, hread] at h; injection h with h; exact h.symm
        · rw [execChdrShort_at hw, hread] at h; injection h with h; exact h.symm
        · rw [execEos_at hw, hread] at h; injection h with h; exact h.symm
      subst this
      exact .failed _ _ hw.1 hw.2.1 rfl (by simp) (.inr ⟨rfl, hph⟩)
  · have hph : s.phase ≠ .deliver := by rw [hw.2.2]; simp
    have hle : (srcPeek s.chEnc.toNat s).length ≤ s.chEnc.toNat := by simp [srcPeek]
    rw [execPayload_at hw hle] at h
    injection h with h
    have hp : (srcPeek s.chEnc.toNat s).length = min s.chEnc.toNat (s.src.length - s.srcOff) := by simp [srcPeek]
    cases hd : s.draw.ioFault
    · rw [srcRead_ok hd] at h
      simp only [Flow.bind_go] at h
      split_ifs at h with hlt
      · subst h
        exact .failed _ { s with srcOff := s.srcOff + (srcPeek s.chEnc.toNat s).length } hw.1 hw.2.1 rfl
          (by simp) (.inl ⟨Nat.le_add_right .., fun _ => by simp only; omega⟩)
      · subst h
        exact .payloadRead _ hw (by omega) (by omega)
    · rw [srcRead_fault hd] at h
      subst h
      exact .failed _ (loseSrcOff s) hw.1 hw.2.1 rfl (by simp) (.inr ⟨rfl, hph⟩)
  · rw [execDispatch_at hw] at h
    injection h with h
    subst h
    split_ifs with h9 h1
    · exact selectIma4_effect ⟨hw, h9⟩
    · exact selectWs8_effect ⟨hw, h1⟩
    · exact .failed _ s hw.1 hw.2.1 rfl (by simp) (.inl ⟨le_refl _, id⟩)
  · rw [execDeliver_at hw] at h
    injection h with h
    subst h
    rcases hb : s.outbuf[s.dlvPtr.toNat]? with _ | b
    · have hn := List.getElem?_eq_none_iff.1 hb
      rw [deliverFlow_end hn]
      exact .delivered hw hn
    · have hlt : s.dlvPtr.toNat < s.outbuf.length := (List.getElem?_eq_some_iff.1 hb).1
      by_cases hr : chanHasRoom s
      · cases hd : s.draw.ioFault
        · rw [deliverFlow_push hb hr hd]
          exact .pushed b hw hb hr
        · rw [deliverFlow_fault hb hr hd]
          exact .failed _ s hw.1 hw.2.1 rfl (by simp) (.inl ⟨le_refl _, id⟩)
      · rw [deliverFlow_blocked ⟨hlt, hr⟩]
        exact .waits

/-- `OPEN`'s effect (R160, R207). -/
theorem execOpen_effect {s t : State} (h : execOpen s = .next t) : CallerEffect s t := by
  rw [execOpen] at h
  split_ifs at h with hs
  injection h with h
  subst h
  rw [openHeader]
  by_cases hl : 12 ≤ (s.src.drop s.srcOff).length
  · obtain ⟨h0, h1, h2, h3, h4, h5, h6, h7, h8, h9, h10, h11, r, e⟩ := twelve_bytes _ hl
    simp only [srcPeek, e, List.take, decodeFileHeader, fhdrFlow]
    have ho : s.srcOff + 12 ≤ s.src.length := by simp at hl; omega
    cases hd : s.draw.ioFault
    · rw [srcRead_ok hd]
      exact .opened _ _ _ _ _ hs ho
    · rw [srcRead_fault hd]
      exact .openFailed _ (loseSrcOff s) hs rfl (by simp) (.inr rfl)
  · have hlen : (srcPeek 12 s).length = s.src.length - s.srcOff := by simp at hl; simp [srcPeek]; omega
    rw [decodeFileHeader_short _ (by simp at hl; omega)]
    simp only [fhdrShortFlow]
    cases hd : s.draw.ioFault
    · rw [srcRead_ok hd]
      exact .openFailed _ { s with srcOff := s.srcOff + (srcPeek 12 s).length } hs rfl (by simp)
        (.inl ⟨Nat.le_add_right .., fun _ => by simp only; omega⟩)
    · rw [srcRead_fault hd]
      exact .openFailed _ (loseSrcOff s) hs rfl (by simp) (.inr rfl)

/-- `READ`'s effect (R175, R176). -/
theorem execRead_effect {n : Nat} {s t : State} (h : execRead n s = .next t) : CallerEffect s t := by
  rw [execRead] at h
  split_ifs at h with hs
  obtain ⟨hk, hc, hn⟩ := hs
  injection h with h
  subst h
  rw [readAdmitted]
  split_ifs with hf ha hb hb he
  · exact .ended _ hk hc (.inl ⟨rfl, hf⟩)
  · exact .popped _ hk hc (by simpa using hf) hb.1
  · exact .surfaced hk hc (by simpa using hf) ha
  · exact .popped _ hk hc (by simpa using hf) hb
  · exact .ended _ hk hc (.inr ⟨rfl, by simpa using hf, he, by simpa using hb⟩)
  · exact .suspended n hk hc hn ⟨by simpa using hf, by cases hs : s.sinkEnd <;> simp_all, by simpa using hb⟩

/-- A status read's effect (R183). -/
theorem statusRead_effect {r : StatusReg} {s t : State} (h : statusRead r s = .next t) : CallerEffect s t := by
  rw [statusRead] at h
  split_ifs at h
  injection h with h
  subst h
  exact .answered _ rfl

/-- Every command of the caller has one of the effects. -/
theorem issue_effect {c : HostCmd} {s t : State} (h : issue c s = .next t) : CallerEffect s t := by
  cases c with
  | openStream => exact execOpen_effect h
  | start =>
    simp only [issue, exec, execStart] at h
    split_ifs at h with hs
    injection h with h
    subst h
    exact .started hs.1 hs.2
  | read n => exact execRead_effect h
  | close =>
    simp only [issue, exec, execClose] at h
    split_ifs at h with hs
    · injection h with h
      subst h
      exact .closed hs.1 hs.2
    · injection h with h
      subst h
      exact .nothing
  | bitrate =>
    injection h with h
    subst h
    exact .answered _ rfl
  | channels =>
    injection h with h
    subst h
    exact .answered _ rfl
  | status r => exact statusRead_effect h

/-- Every move of the caller has one of the effects, in a state that differs only in the commands left. -/
theorem callerMove_effect {s t : State} (h : callerMove s = .next t) :
    ∃ cs, CallerEffect { s with cmds := cs } t := by
  rcases callerMove_cases h with rfl | ⟨c, cs, h⟩
  · exact ⟨t.cmds, .nothing⟩
  · exact ⟨cs, issue_effect h⟩

/-- Every step is the block's reset, or a move of the worker or of the caller in a state that differs from
the one before it only in the model's own fields. -/
theorem step_effect {s t : State} (h : step s = .next t) :
    (∃ cfg src ts, s.turns = .reset cfg src :: ts ∧ t = blockReset cfg src { s with turns := ts }) ∨
    ∃ d ts n m l cs, (∀ u ∈ ts, u ∈ s.turns) ∧
      (WorkerEffect
          { s with turns := ts, draw := d, freeCount := n, freeMover := m, freeLeft := l, cmds := cs } t ∨
       CallerEffect
          { s with turns := ts, draw := d, freeCount := n, freeMover := m, freeLeft := l, cmds := cs } t) := by
  rcases step_cases h with h | ⟨d, ts, n, m, l, hts, h | h⟩
  · exact .inl h
  · exact .inr ⟨d, ts, n, m, l, s.cmds, hts, .inl (workerMove_effect h)⟩
  · obtain ⟨cs, h⟩ := callerMove_effect h
    exact .inr ⟨d, ts, n, m, l, cs, hts, .inr h⟩

/-! ## The schedule that is left -/

/-- What the moves of the agents leave of the schedule: the listed turns, and the stretch of the free ones. -/
def SameSchedule (s t : State) : Prop :=
  t.turns = s.turns ∧ t.freeMover = s.freeMover ∧ t.freeLeft = s.freeLeft ∧ t.cmds = s.cmds

/-- No operation of the worker touches the schedule, the commands left or the caller's suspension. -/
theorem WorkerEffect.schedule {s t : State} (h : WorkerEffect s t) :
    SameSchedule s t ∧ t.callerWait = s.callerWait := by
  cases h with
  | decoded t h ht _ _ _ => rw [ht]; exact ⟨⟨rfl, rfl, rfl, rfl⟩, rfl⟩
  | failed e m h hc hm he ho => rw [hm]; exact ⟨⟨rfl, rfl, rfl, rfl⟩, rfl⟩
  | pushed b h hb hr => rw [deliverEnd]; split_ifs <;> exact ⟨⟨rfl, rfl, rfl, rfl⟩, rfl⟩
  | delivered h hb => rw [deliverEnd]; split_ifs <;> exact ⟨⟨rfl, rfl, rfl, rfl⟩, rfl⟩
  | _ => exact ⟨⟨rfl, rfl, rfl, rfl⟩, rfl⟩

/-- No command of the caller touches the schedule or the commands left. -/
theorem CallerEffect.schedule {s t : State} (h : CallerEffect s t) : SameSchedule s t := by
  cases h with
  | openFailed e m h hm he ho => rw [hm]; exact ⟨rfl, rfl, rfl, rfl⟩
  | closed h hc => rw [closeStream]; split <;> exact ⟨rfl, rfl, rfl, rfl⟩
  | _ => exact ⟨rfl, rfl, rfl, rfl⟩

/-- A step leaves of the schedule what the move it takes leaves of it. -/
theorem step_schedule {s t : State} (h : step s = .next t) :
    t.turns = (takeTurn s).2.turns ∧ t.freeMover = (takeTurn s).2.freeMover ∧
      t.freeLeft = (takeTurn s).2.freeLeft := by
  rcases takeTurn_cases s with ⟨cfg, src, ts, ht, e⟩ | ⟨a, d, ts, n, m, l, hm, e⟩
  · rw [step, e] at h
    injection h with h
    subst h
    rw [e]
    exact ⟨rfl, rfl, rfl⟩
  · rw [e]
    cases a
    · rw [step_of_worker e] at h
      have hk := (workerMove_effect h).schedule.1
      exact ⟨hk.1, hk.2.1, hk.2.2.1⟩
    · rw [step_of_caller e] at h
      obtain ⟨cs, h⟩ := callerMove_effect h
      exact ⟨h.schedule.1, h.schedule.2.1, h.schedule.2.2.1⟩

end Sys2Proof.Machine
end

