-- ==== Sys2Proof/Tests/Slice0.lean ====
section
/-! SUPPORT. Tests of the model: each expected result is a vector of 95_test_vectors.md (V<n>) or computed
by hand from the rule named. -/

namespace Sys2Proof.Tests

open Sys2Proof.Machine

/-- The parameters of 95_test_vectors.md, with a channel of two bytes and the illustrative delta entries of
V42: D[2] = -3 and D[3] = 5; D[0] = 0, D[15] = -200, and 100 elsewhere. -/
def cfg : Params where
  chanCap := 2
  chunkMagic := 0xDEAF
  magicCheck := true
  imaStep := imaStepTable
  imaIndex := imaIndexTable
  ws8Delta := ⟨#[0, 100, -3, 5, 100, 100, 100, 100, 100, 100, 100, 100, 100, 100, 100, -200], by decide⟩

/-- A block just reset, with the test's parameters. -/
def fresh : State := { State.reset with cfg := cfg }

/-- A worker in a phase of a stream of a codec. -/
def running (p : Phase) (ctype : BitVec 8) : State :=
  { fresh with state := .running, phase := p, fhCtype := ctype, ws8Pred := 0x80 }

/-- A chunk of a codec under decode. -/
def decoding (ctype : BitVec 8) (p : List Byte) (decodedSize : BitVec 16) : State :=
  { running .decode ctype with payload := p, chEnc := BitVec.ofNat 16 p.length, chDec := decodedSize }

/-- The fault draw. -/
def faulty (s : State) : State := { s with draw := ⟨true, 0, false, false⟩ }

/-- What a next state shows, if there is one. -/
def shows {α : Type} (o : Host.Outcome State Fault Refusal) (f : State → α) : Option α :=
  match o with
  | .next s => some (f s)
  | .fault _ => none
  | .refused _ => none

/-- The refusal, if there is one. -/
def refusal (o : Host.Outcome State Fault Refusal) : Option Refusal :=
  match o with
  | .next _ => none
  | .fault _ => none
  | .refused r => some r

/-- The fault, if there is one. -/
def faultOf (o : Host.Outcome State Fault Refusal) : Option Fault :=
  match o with
  | .next _ => none
  | .fault f => some f
  | .refused _ => none

/-! ## Well-formedness: an ill-formed term for each check -/

theorem test_wf_refuses_fhdrShort : (Instr.fhdrShort (List.replicate 12 0)).wellFormed = false := by decide
theorem test_wf_refuses_chdrShort_empty : (Instr.chdrShort []).wellFormed = false := by decide
theorem test_wf_refuses_chdrShort_whole : (Instr.chdrShort (List.replicate 8 0)).wellFormed = false := by decide
theorem test_wf_refuses_payload (p : List Byte) (h : p.length = 65536) : (Instr.payload p).wellFormed = false := by
  simp [Instr.wellFormed, h]
theorem test_wf_refuses_selUnsupported_ws8 : (Instr.selUnsupported 1).wellFormed = false := by decide
theorem test_wf_refuses_selUnsupported_ima4 : (Instr.selUnsupported 99).wellFormed = false := by decide
theorem test_wf_refuses_read_zero : (Instr.readCmd 0).wellFormed = false := by decide
theorem test_wf_admits : [Instr.fhdrShort [], .chdrShort [0], .payload [], .selUnsupported 5, .readCmd 1].all
    Instr.wellFormed = true := by decide

/-! ## Decoding: words written out from 30_encoding.md -/

/-- V1, the file header of Scenario A. -/
theorem test_decode_fhdr :
    decode .fileHeader [0x11, 0x2B, 0x10, 0, 0, 0, 0x20, 0, 0, 0, 0x02, 0x01]
      = .op (.fhdr 11025 16 32 2 1) [] := by decide
/-- R70, every field with its own bytes. -/
theorem test_decode_fhdr_fields :
    decode .fileHeader [0x01, 0x02, 0x03, 0x04, 0x05, 0x06, 0x07, 0x08, 0x09, 0x0A, 0x0B, 0x0C, 0xFF]
      = .op (.fhdr 0x0201 0x06050403 0x0A090807 0x0B 0x0C) [0xFF] := by decide
/-- V6, a source of 5 bytes. -/
theorem test_decode_fhdrShort : decode .fileHeader [1, 2, 3, 4, 5] = .op (.fhdrShort [1, 2, 3, 4, 5]) [] := by decide
/-- V4. -/
theorem test_decode_chdr :
    decode .chunkHeader [0x10, 0, 0x40, 0, 0xAF, 0xDE, 0, 0] = .op (.chdr 16 64 0x0000DEAF) [] := by decide
/-- V4, the other magic. -/
theorem test_decode_chdr_magic :
    decode .chunkHeader [0x10, 0, 0x40, 0, 0x78, 0x56, 0x34, 0x12] = .op (.chdr 16 64 0x12345678) [] := by decide
/-- V30, 3 bytes of a chunk header. -/
theorem test_decode_chdrShort : decode .chunkHeader [0x10, 0, 0x40] = .op (.chdrShort [0x10, 0, 0x40]) [] := by decide
/-- V2, no byte where a chunk header is expected. -/
theorem test_decode_eos : decode .chunkHeader [] = .op .eos [] := by decide
/-- V34, 1 byte where 2 are declared. -/
theorem test_decode_payload : decode (.payload 2) [7] = .op (.payload [7]) [] := by decide
/-- R72, a payload is exactly its declared length. -/
theorem test_decode_payload_rest : decode (.payload 2) [7, 8, 9] = .op (.payload [7, 8]) [9] := by decide
/-- R74. -/
theorem test_decode_selWs8 : decode .codecSelect [0x01] = .op .selWs8 [] := by decide
theorem test_decode_selIma4 : decode .codecSelect [0x63] = .op .selIma4 [] := by decide
theorem test_decode_selUnsupported : decode .codecSelect [0x05] = .op (.selUnsupported 5) [] := by decide
/-- V27: byte 0x97 is code 7, then code 9. -/
theorem test_decode_ima4Byte : decode .ima4Byte [0x97] = .op (.ima4Byte 7 9) [] := by decide
theorem test_decode_ima4Nib : decode .ima4Nib [0x0F] = .op (.ima4Nib 15) [] := by decide
theorem test_decode_ima4Nib_rejected : decode .ima4Nib [0x1F] = .rejected .notANibble := by decide
theorem test_decode_ws8Byte : decode .ws8Byte [0x23] = .op (.ws8Byte 0x23) [] := by decide
/-- R141's examples: 0x83 is a RUN of 3, 0x23 a DELTA with codes 2 and 3. -/
theorem test_decode_ws8Run : decode .ws8Command [0x83] = .op (.ws8Run 3) [] := by decide
theorem test_decode_ws8Delta : decode .ws8Command [0x23] = .op (.ws8Delta 2 3) [] := by decide
/-- P2: byte 0x7F is a DELTA with codes 7 and 15. -/
theorem test_decode_ws8Delta_top : decode .ws8Command [0x7F] = .op (.ws8Delta 7 15) [] := by decide
theorem test_decode_nothing : decode .ws8Command [] = .rejected .noByte := by decide
/-- The rows of the table that have fixed bits. -/
theorem test_table_words :
    decodeTableWord 8 0x01 = some .selWs8 ∧ decodeTableWord 8 0x63 = some .selIma4 ∧
      decodeTableWord 8 0x80 = some (.ws8Run 0) ∧ decodeTableWord 8 0x00 = some (.ws8Delta 0 0) := by decide
/-- V1's bytes as one number, its first byte the least significant. -/
theorem test_table_word_fhdr :
    decodeTableWord 96 0x010200000020000000102B11 = some (.fhdr 11025 16 32 2 1) := by decide

/-! ## A placed word is what the next step runs -/

theorem test_place_selWs8 : shows (step (State.reset.withFetchWord 8 1)) (·.phase) = some .deliver := by decide
theorem test_place_selIma4 : shows (step (State.reset.withFetchWord 8 99)) (·.phase) = some .deliver := by decide
theorem test_place_ws8Run : shows (step (State.reset.withFetchWord 8 0x83)) (·.outbuf) = some [0, 0, 0] := by decide
theorem test_place_ws8Delta : shows (step (State.reset.withFetchWord 8 0x00)) (·.outbuf.length) = some 2 := by decide
theorem test_place_fhdr :
    shows (step (State.reset.withFetchWord 96 0x010200000020000000102B11)) (fun s => (s.state, s.fhFreq))
      = some (.idle, 11025) := by decide
theorem test_place_chdr :
    shows (step (State.reset.withFetchWord 64 0x0000DEAF00400010)) (fun s => (s.phase, s.chEnc))
      = some (.payload, 16) := by decide

/-! ## The default tables -/

/-- R120: the ends of the rows of the rule, and that the table rises. -/
theorem test_step_table :
    [0, 9, 10, 29, 30, 49, 50, 69, 70, 87, 88].map (fun i => (imaStepList[i]?).map Fin.val)
      = [some 7, some 17, some 19, some 118, some 130, some 796, some 876, some 5358, some 5894, some 29794,
         some 32767] := by decide
theorem test_step_table_rises : imaStepList.Pairwise (· < ·) := by decide

/-! ## The header operations -/

/-- V1. -/
theorem test_open :
    shows (exec .openCmd { fresh with src := [0x11, 0x2B, 0x10, 0, 0, 0, 0x20, 0, 0, 0, 0x02, 0x01] })
        (fun s => (s.state, s.fhFreq, s.fhDataSize, s.fhOutSize, s.fhFlags, s.fhCtype))
      = some (.idle, 11025, 16, 32, 2, 1) := by decide
theorem test_open_state :
    shows (exec .openCmd { fresh with src := [0x11, 0x2B, 0x10, 0, 0, 0, 0x20, 0, 0, 0, 0x02, 0x01] })
        (fun s => (s.ws8Pred, s.imaIndex, s.imaPred, s.srcOff)) = some (0x80, 0, 0, 12) := by decide
/-- V6. -/
theorem test_open_short :
    shows (exec .openCmd { fresh with src := [1, 2, 3, 4, 5] }) (fun s => (s.state, s.err, s.srcOff))
      = some (.openFail, .malformedHeader, 5) := by decide
theorem test_open_fault :
    shows (exec .openCmd (faulty fresh)) (fun s => (s.state, s.err)) = some (.openFail, .ioFailure) := by decide
theorem test_open_twice : refusal (exec .openCmd { fresh with state := .idle }) = some .openRefused := by decide
theorem test_fhdr : shows (exec (.fhdr 1 2 3 4 5) fresh) (fun s => (s.fhFreq, s.fhCtype, s.srcOff)) = some (1, 5, 12) := by
  decide
theorem test_fhdrShort :
    shows (exec (.fhdrShort []) fresh) (fun s => (s.state, s.err)) = some (.openFail, .malformedHeader) := by decide
/-- V4. -/
theorem test_chdr :
    shows (exec (.chdr 16 64 0xDEAF) (running .chdr 99)) (fun s => (s.chEnc, s.chDec, s.chMagic, s.phase, s.srcOff))
      = some (16, 64, 0xDEAF, .payload, 8) := by decide
/-- V32. -/
theorem test_chdr_badMagic :
    shows (exec (.chdr 1 4 0x12345678) (running .chdr 99)) (fun s => (s.state, s.err, s.phase, s.srcOff))
      = some (.failed, .badMagic, .chdr, 8) := by decide
/-- V32, with the check off. -/
theorem test_chdr_noCheck :
    shows (exec (.chdr 1 4 0x12345678) { running .chdr 99 with cfg := { cfg with magicCheck := false } })
        (fun s => (s.state, s.phase)) = some (.running, .payload) := by decide
/-- V30. -/
theorem test_chdrShort :
    shows (exec (.chdrShort [1, 2, 3]) (running .chdr 99)) (fun s => (s.state, s.err, s.srcOff))
      = some (.failed, .malformedHeader, 3) := by decide
/-- V5. -/
theorem test_bitrate_channels :
    [0x00, 0x01, 0x02, 0x03, 0xFC, 0xFD, 0xFE, 0xFF].map (fun f => (bitrateOf f, channelsOf f))
      = [(8, 1), (8, 2), (16, 1), (16, 2), (8, 1), (8, 2), (16, 1), (16, 2)] := by decide
theorem test_bitrate :
    shows (exec .bitrate { fresh with state := .idle, fhFlags := 2 }) (·.results) = some [.bitrate 16] := by decide
theorem test_channels :
    shows (exec .channels { fresh with state := .idle, fhFlags := 2 }) (·.results) = some [.channels 1] := by decide
/-- D14: readable at any time; R21's code of `NoStream` and of `Failed`, R200's of `TruncatedChunk`. -/
theorem test_bitrate_beforeOpen : (shows (exec .bitrate fresh) (·.results.length)) = some 1 := by decide
theorem test_status_codes :
    [statusRead .state fresh, statusRead .state { fresh with state := .failed },
      statusRead .err { fresh with err := .truncatedChunk }].map (fun o => shows o (·.results))
      = [some [.status .state 0], some [.status .state 4], some [.status .err 3]] := by decide
/-- I11. -/
theorem test_status_srcOff_lost :
    faultOf (statusRead .srcOff { fresh with state := .failed, err := .ioFailure, phase := .payload })
      = some (.holdsNoValue .srcOff) := by decide

/-! ## IMA4 -/

/-- V10 to V17, codes 0 to 7 from (0, 0). -/
theorem test_ima4Nib_up :
    [0, 1, 2, 3, 4, 5, 6, 7].map (fun c => imaNext cfg 0 0 c)
      = [(0, 0), (0, 1), (0, 3), (0, 4), (2, 7), (4, 8), (6, 10), (8, 11)] := by decide
/-- V18 to V25, codes 8 to 15 from (0, 0). -/
theorem test_ima4Nib_down :
    [8, 9, 10, 11, 12, 13, 14, 15].map (fun c => imaNext cfg 0 0 c)
      = [(0, 0), (0, -1), (0, -3), (0, -4), (2, -7), (4, -8), (6, -10), (8, -11)] := by decide
/-- V26. -/
theorem test_ima4Nib_corners :
    [imaNext cfg 88 32767 7, imaNext cfg 88 (-32768) 15, imaNext cfg 88 32000 15, imaNext cfg 88 0 7,
     imaNext cfg 88 0 0, imaNext cfg 87 100 4, imaNext cfg 1 0 3, imaNext cfg 0 5 8]
      = [(88, 32767), (88, -32768), (88, -29436), (88, 32767), (87, 4095), (88, 32767), (0, 7), (0, 5)] := by decide
/-- V19: the sample -1, low byte first; V26: -29436. -/
theorem test_sampleBytes : (sampleBytes (-1), sampleBytes (-29436)) = ([0xFF, 0xFF], [0x04, 0x8D]) := by decide
theorem test_ima4Nib :
    shows (exec (.ima4Nib 7) (decoding 99 [0x97] 4)) (fun s => (s.imaIndex, s.imaPred, s.outbuf))
      = some (8, 11, [0x0B, 0x00]) := by decide
/-- V27. -/
theorem test_ima4Byte :
    shows (exec (.ima4Byte 7 9) (decoding 99 [0x97] 4)) (fun s => (s.imaIndex, s.imaPred, s.outbuf))
      = some (7, 5, [0x0B, 0x00, 0x05, 0x00]) := by decide
theorem test_ima4Chunk :
    shows (exec .ima4Chunk (decoding 99 [0x97] 4)) (fun s => (s.imaIndex, s.imaPred, s.outbuf))
      = some (7, 5, [0x0B, 0x00, 0x05, 0x00]) := by decide
/-- V28. -/
theorem test_ima4Chunk_mismatch :
    shows (exec .ima4Chunk (decoding 99 [0x97] 3)) (fun s => (s.state, s.err, s.outbuf))
      = some (.failed, .sizeMismatch, []) := by decide
/-- P1, its first chunk. -/
theorem test_selIma4 :
    shows (exec .selIma4 (decoding 99 [0x77, 0x07] 8)) (fun s => (s.phase, s.outbuf))
      = some (.deliver, [0x0B, 0x00, 0x29, 0x00, 0x68, 0x00, 0x71, 0x00]) := by decide
/-- P1, its second chunk, from the state (23, 113) that the first left. -/
theorem test_dispatch_carried :
    shows (exec .dispatch { decoding 99 [0x8F, 0x00] 8 with imaIndex := 23, imaPred := 113 })
        (fun s => (s.imaIndex, s.imaPred, s.outbuf))
      = some (28, 3, [0xF6, 0xFF, 0xE5, 0xFF, 0xF5, 0xFF, 0x03, 0x00]) := by decide

/-! ## WS8 -/

/-- V40. -/
theorem test_ws8Run :
    shows (exec (.ws8Run 3) (decoding 1 [0x83] 3)) (fun s => (s.ws8Pred, s.outbuf)) = some (0x80, [0x80, 0x80, 0x80]) := by
  decide
/-- V46: the third emit of the last run is one byte too many. -/
theorem test_ws8Run_excess :
    shows (exec (.ws8Run 4) { decoding 1 [0x83, 0x80, 0x84] 5 with outbuf := [0x80, 0x80, 0x80] })
        (fun s => (s.state, s.err, s.outbuf)) = some (.failed, .sizeMismatch, []) := by decide
/-- V42. -/
theorem test_ws8Delta :
    shows (exec (.ws8Delta 2 3) (decoding 1 [0x23] 2)) (fun s => (s.ws8Pred, s.outbuf)) = some (0x82, [0x7D, 0x82]) := by
  decide
/-- V43: both bounds, 128 + 100 + 100 and 255 - 200 - 200. -/
theorem test_ws8Next_saturates : (ws8Next cfg 250 3, ws8Next cfg 3 2, ws8Next cfg 55 15) = (255, 0, 0) := by decide
theorem test_ws8Emit :
    shows (exec (.ws8Emit 9) (decoding 1 [] 1)) (·.outbuf) = some [9] := by decide
theorem test_ws8Emit_full :
    shows (exec (.ws8Emit 9) (decoding 1 [] 0)) (fun s => (s.state, s.err)) = some (.failed, .sizeMismatch) := by decide
theorem test_ws8Byte_run : shows (exec (.ws8Byte 0x83) (decoding 1 [] 3)) (·.outbuf) = some [0x80, 0x80, 0x80] := by decide
theorem test_ws8Byte_delta : shows (exec (.ws8Byte 0x23) (decoding 1 [] 2)) (·.outbuf) = some [0x7D, 0x82] := by decide
/-- V45. -/
theorem test_ws8Chunk :
    shows (exec .ws8Chunk (decoding 1 [0x83, 0x23] 5)) (fun s => (s.ws8Pred, s.outbuf))
      = some (0x82, [0x80, 0x80, 0x80, 0x7D, 0x82]) := by decide
/-- V47. -/
theorem test_ws8Chunk_underrun :
    shows (exec .ws8Chunk (decoding 1 [0x83, 0x80] 5)) (fun s => (s.state, s.err)) = some (.failed, .sizeMismatch) := by
  decide
/-- V48: the predictor that the first chunk left. -/
theorem test_selWs8 :
    shows (exec .selWs8 { decoding 1 [0x82] 2 with ws8Pred := 0x42 }) (fun s => (s.phase, s.outbuf))
      = some (.deliver, [0x42, 0x42]) := by decide

/-! ## The sequencer -/

/-- V2. -/
theorem test_eos :
    shows (exec .eos (running .chdr 99)) (fun s => (s.state, s.closeCause, s.err, s.sinkEnd))
      = some (.closed, .normal, .none, .eof) := by decide
theorem test_eos_fault :
    shows (exec .eos (faulty (running .chdr 99))) (fun s => (s.state, s.err)) = some (.failed, .ioFailure) := by decide
theorem test_payload :
    shows (exec (.payload [7, 8]) { running .payload 99 with chEnc := 2 }) (fun s => (s.payload, s.phase, s.srcOff))
      = some ([7, 8], .decode, 2) := by decide
/-- V31. -/
theorem test_payload_truncated :
    shows (exec (.payload [1, 2, 3, 4, 5]) { running .payload 99 with chEnc := 16 })
        (fun s => (s.state, s.err, s.srcOff, s.chan)) = some (.failed, .truncatedChunk, 5, []) := by decide
/-- V3. -/
theorem test_dispatch_unsupported :
    shows (exec .dispatch (decoding 5 [0, 0] 4)) (fun s => (s.state, s.err, s.sinkEnd, s.chan))
      = some (.failed, .unsupportedCodec, .abnormal, []) := by decide
theorem test_selUnsupported :
    shows (exec (.selUnsupported 5) (decoding 5 [0, 0] 4)) (fun s => (s.state, s.err))
      = some (.failed, .unsupportedCodec) := by decide
/-- R168's example, the first push. -/
theorem test_deliver :
    shows (exec .deliver { running .deliver 99 with outbuf := [0x0B, 0x00, 0x05, 0x00] })
        (fun s => (s.chan, s.dlvPtr, s.phase)) = some ([0x0B], 1, .deliver) := by decide
/-- R168: the last byte ends the chunk in the same step. -/
theorem test_deliver_last :
    shows (exec .deliver { running .deliver 99 with outbuf := [7], chan := [6] })
        (fun s => (s.chan, s.chunkCount, s.phase)) = some ([6, 7], 1, .chdr) := by decide
theorem test_cancel :
    shows (exec .cancel { running .deliver 99 with cancelReq := true, callerClosed := true })
        (fun s => (s.state, s.closeCause, s.err)) = some (.closed, .cancelled, .none) := by decide
/-- P4, step 1: the channel is full, and the worker waits. -/
theorem test_worker_blocked :
    workerFetch { running .deliver 99 with outbuf := [1, 2, 3], dlvPtr := 2, chan := [1, 2] } = none := by decide

/-! ## The host commands -/

theorem test_start : shows (exec .startCmd { fresh with state := .idle }) (fun s => (s.state, s.phase)) = some (.running, .chdr) := by
  decide
theorem test_start_refused : refusal (exec .startCmd (running .chdr 99)) = some .startRefused := by decide
/-- R175: the draw 1 of a `READ(4)` on two bytes returns two. -/
theorem test_read :
    shows (exec (.readCmd 4) { running .deliver 99 with chan := [8, 9], draw := ⟨false, 1, false, false⟩ })
        (fun s => (s.results, s.chan)) = some ([.bytes [8, 9]], []) := by decide
/-- V2: after `EOS` a `READ(1)` returns `END`. -/
theorem test_read_end :
    shows (exec (.readCmd 1) { fresh with state := .closed, sinkEnd := .eof }) (·.results) = some [.endOfStream] := by decide
theorem test_close_idle :
    shows (exec .closeCmd { fresh with state := .idle }) (fun s => (s.state, s.closeCause, s.callerClosed))
      = some (.closed, .cancelled, true) := by decide
/-- R177's example. -/
theorem test_close_running :
    shows (exec .closeCmd { running .deliver 99 with chan := [1, 2] }) (fun s => (s.state, s.cancelReq, s.chan))
      = some (.running, true, []) := by decide
/-- R14: a caller suspended in a `READ` tries it again at its next move. -/
theorem test_read_again :
    shows (step { running .chdr 99 with turns := [.caller ⟨false, 0, false, false⟩], callerWait := some 3, chan := [5] })
        (fun s => (s.results, s.callerWait)) = some ([.bytes [5]], none) := by decide

/-- R175: a `READ` in `Idle` waits, and `START` comes beside it. -/
theorem test_read_idle_start :
    let s := { fresh with state := .idle, callerWait := some 1, cmds := [.start], turns := [.caller quietDraw] }
    shows (step s) (fun s => (s.state, s.callerWait, s.cmds)) = some (.running, some 1, []) := by decide
/-- R68: a second `READ` waits for the first. -/
theorem test_read_second_waits :
    let s := { running .chdr 99 with callerWait := some 1, cmds := [.read 2], turns := [.caller quietDraw] }
    shows (step s) (fun s => (s.callerWait, s.cmds)) = some (some 1, [.read 2]) := by decide
/-- R164 and R51 at `CH_ENC = 0` (log 31). -/
theorem test_payload_empty_fault :
    shows (exec (.payload []) (faulty (running .payload 99))) (fun s => (s.state, s.err)) = some (.failed, .ioFailure) := by
  decide
/-- R180: over after `END`, not before the caller has read it. -/
theorem test_runOver :
    let s := { fresh with state := .closed, sinkEnd := .eof }
    runOver { s with results := [.bytes [1], .endOfStream, .bitrate 8] } ∧ ¬ runOver { s with results := [.bytes [1]] } := by
  simp [runOver, finalAnswer, StreamState.terminal, HostResult.ofRead, HostResult.ending, fresh, State.reset]

/-! ## States that meet the hypotheses of each statement (Certificates/Slice0/Obligations.lean) -/

/-- A worker's turn without a fault. -/
def quiet : Turn := .worker quietDraw
/-- A caller's turn whose draw is the least. -/
def ask : Turn := .caller quietDraw
/-- A worker in `DELIVER` with two bytes of a chunk left to push and a byte in `CHAN`. -/
def delivering : State := { running .deliver 99 with outbuf := [5, 6], chDec := 2, chan := [9], turns := [quiet] }
/-- A stream that failed, with a byte still in `CHAN`. -/
def failedStream : State := { fresh with state := .failed, err := .sizeMismatch, sinkEnd := .abnormal, chan := [7] }
/-- The same stream once a `READ` has surfaced the failure. -/
def surfaced : State := { failedStream with failSeen := true, chan := [], turns := [ask], cmds := [.read 3] }
/-- The 12 bytes of Scenario A's file header (V1). -/
def headerA : List Byte := [0x11, 0x2B, 0x10, 0, 0, 0, 0x20, 0, 0, 0, 0x02, 0x01]
/-- A source of one IMA4 chunk of one byte, and room for it. -/
def oneChunk : State :=
  { running .chdr 99 with
    cfg := { cfg with chanCap := 4 }, src := [1, 0, 4, 0, 0xAF, 0xDE, 0, 0, 0x97], turns := List.replicate 7 quiet }

theorem test_inv_fresh : RegInv { fresh with turns := [ask], cmds := [.close] } := by
  constructor <;> first | decide | simp [ask, finalAnswer, fresh, State.reset]
theorem test_inv_delivering : RegInv delivering := by constructor <;> first | decide | simp [delivering, quiet, finalAnswer, fresh, running, State.reset]
theorem test_inv_failed : RegInv { failedStream with turns := [ask], cmds := [.read 1] } := by
  constructor <;> first | decide | simp [ask, finalAnswer, fresh, failedStream, State.reset]
theorem test_inv_surfaced : RegInv surfaced := by constructor <;> first | decide | simp [surfaced, ask, finalAnswer, fresh, failedStream, State.reset]
theorem test_inv_popping : RegInv { delivering with turns := [ask], cmds := [.read 1] } := by
  constructor <;> first | decide | simp [ask, finalAnswer, fresh, delivering, running, State.reset]

theorem test_witness_DecodeOfEncodeIsTheOperation :
    (Instr.fhdrShort [1]).wellFormed = true ∧ encode (.fhdrShort [1]) = some (.fileHeader, [1]) ∧
    ((Instr.fhdrShort [1]).endsSource = true → ([] : List Byte) = []) ∧
    (Instr.ws8Run 127).wellFormed = true ∧ encode (.ws8Run 127) = some (.ws8Command, [0xFF]) ∧
    ((Instr.ws8Run 127).endsSource = true → [(3 : Byte)] = []) := by decide
theorem test_witness_EncodeOfDecodeIsTheBytes :
    (∀ n, InputUnit.payload 2 = .payload n → n ≤ 65535) ∧
    decode (.payload 2) [7, 8, 9] = .op (.payload [7, 8]) [9] := ⟨fun n h => by cases h; decide, by decide⟩
theorem test_witness_StepKeepsTheInvariant_worker : RegInv delivering ∧ ∃ t, step delivering = .next t :=
  ⟨test_inv_delivering, _, rfl⟩
theorem test_witness_StepKeepsTheInvariant_caller :
    RegInv { fresh with turns := [ask], cmds := [.close] } ∧
    ∃ t, step { fresh with turns := [ask], cmds := [.close] } = .next t := ⟨test_inv_fresh, _, rfl⟩
theorem test_witness_BlockResetRestoresEveryRegister :
    { failedStream with turns := [.reset cfg [1], quiet] }.turns = .reset cfg [1] :: [quiet] := rfl

theorem test_witness_StepRunsTheWorkersOperation :
    let c := { running .deliver 99 with cancelReq := true, turns := [quiet] }
    let h := { running .chdr 99 with src := [1, 2], turns := [quiet] }
    let p := { running .payload 99 with src := [1], chEnc := 1, turns := [quiet] }
    let d := { decoding 99 [0x97] 4 with turns := [quiet] }
    (c.state = .running ∧ c.cancelReq = true) ∧
    (h.state = .running ∧ h.cancelReq = false ∧ h.phase = .chdr ∧
      decode .chunkHeader ((h.src.drop h.srcOff).take 8) = .op (.chdrShort [1, 2]) []) ∧
    (p.state = .running ∧ p.cancelReq = false ∧ p.phase = .payload) ∧
    (d.state = .running ∧ d.cancelReq = false ∧ d.phase = .decode) ∧
    (delivering.state = .running ∧ delivering.cancelReq = false ∧ delivering.phase = .deliver ∧
      ¬ deliverBlocked delivering) := by decide
theorem test_witness_StepRunsTheCallersCommand :
    let r := { running .chdr 99 with cmds := [.read 1], turns := [ask] }
    let q := { running .chdr 99 with cmds := [.status .err], turns := [ask] }
    let i := { fresh with state := .idle, callerWait := some 1, cmds := [.start], turns := [ask] }
    let w := { delivering with callerWait := some 3, cmds := [.close], turns := [ask] }
    (r.turns = ask :: [] ∧ r.cmds = .read 1 :: [] ∧ r.callerWait = none ∧
      HostCmd.instr? (.read 1) = some (.readCmd 1)) ∧
    (q.turns = ask :: [] ∧ q.cmds = .status .err :: [] ∧ q.callerWait = none) ∧
    (i.turns = ask :: [] ∧ i.cmds = .start :: [] ∧ i.callerWait = some 1 ∧ HostCmd.start.besideRead = true ∧
      readBlocked i ∧ HostCmd.instr? .start = some .startCmd) ∧
    (w.turns = ask :: [] ∧ w.callerWait = some 3 ∧ w.cmds = .close :: [] ∧ ¬ readBlocked w ∧
      quietDraw.commandFirst = false) := by decide
theorem test_witness_SuspendedReadWaitsForStartAndADelivery :
    let i := { fresh with state := .idle, callerWait := some 1, cmds := [.start], turns := [ask] }
    let e := { running .chdr 99 with callerWait := some 1, turns := [ask] }
    let b := { e with chan := [5] }
    (i.turns = ask :: [] ∧ i.callerWait = some 1 ∧ i.callerClosed = false ∧ 1 ≤ 1 ∧ i.failSeen = false ∧
      i.sinkEnd = .isOpen ∧ i.state = .idle ∧ i.chan = [] ∧ i.cmds = .start :: []) ∧
    (e.turns = ask :: [] ∧ e.callerWait = some 1 ∧ e.callerClosed = false ∧ e.failSeen = false ∧
      e.sinkEnd = .isOpen ∧ e.state = .running ∧ e.chan = [] ∧ e.cmds = []) ∧
    (b.turns = ask :: [] ∧ b.callerWait = some 1 ∧ b.callerClosed = false ∧ b.failSeen = false ∧
      b.sinkEnd = .isOpen ∧ b.state = .running ∧ b.chan ≠ [] ∧ b.cmds = []) := by decide
theorem test_witness_WorkerWithoutAStepWaits :
    let i := { fresh with turns := [quiet] }
    let b := { delivering with chan := [8, 9] }
    (i.turns = quiet :: [] ∧ i.state ≠ .running) ∧
    (b.turns = quiet :: [] ∧ b.cancelReq = false ∧ b.phase = .deliver ∧ b.dlvPtr.toNat < b.outbuf.length ∧
      b.cfg.chanCap ≤ b.chan.length) ∧
    (workerAt .deliver b ∧ b.callerWait = none ∧ b.cmds = []) := by decide
theorem test_witness_WorkerWithoutAStepWaits_schedule :
    ∀ cfg src, Turn.reset cfg src ∉ delivering.turns := by simp [delivering, quiet]

/-- R236: where no move is listed, an agent's stretch goes on, and the other agent's follows it. -/
theorem test_free_moves_alternate :
    (takeTurn { fresh with freeMover := .worker, freeLeft := 1 }).1 = .worker (Config.freeDraw 0) ∧
    (takeTurn { fresh with freeMover := .worker }).1 = .caller (Config.freeDraw 0) ∧
    (takeTurn { fresh with freeMover := .caller }).1 = .worker (Config.freeDraw 0) := ⟨rfl, rfl, rfl⟩
theorem test_witness_UnlistedMoveIsAnAgentsOwn : fresh.turns = [] := by decide

/-- Before the host has issued a command, a step is a next state. -/
def unused (s : State) : Prop := s.state = .noStream ∧ s.turns = [] ∧ s.cmds = [] ∧ s.callerWait = none
/-- The run from such a state. -/
def unusedRun : Nat → State
  | 0 => State.reset
  | n + 1 => match step (unusedRun n) with
    | .next t => t
    | .fault _ => State.reset
    | .refused _ => State.reset
theorem test_unused_step {s : State} (h : unused s) : ∃ t, step s = .next t ∧ unused t := by
  obtain ⟨hs, ht, hc, hw⟩ := h
  rcases hl : s.freeLeft with _ | k <;> rcases hm : s.freeMover <;>
    simp [step, takeTurn, freeTurn, Agent.turn, Agent.other, ht, hl, hm, workerMove, workerFetch, callerMove,
      callerFetch, nextCommand, hs, hc, hw, unused]
theorem test_witness_EveryRunIsWeaklyFair : InfiniteRun unusedRun := by
  have h : ∀ n, unused (unusedRun n) := fun n => by
    induction n with
    | zero => exact ⟨rfl, rfl, rfl, rfl⟩
    | succ n ih =>
      obtain ⟨t, e, ht⟩ := test_unused_step ih
      rw [unusedRun, e]
      exact ht
  intro n
  obtain ⟨t, e, -⟩ := test_unused_step (h n)
  rw [unusedRun, e]

theorem test_witness_FileHeaderIsRecorded : fresh.state = .noStream ∧ fresh.draw.ioFault = false := by decide
theorem test_witness_ShortFileHeaderFailsTheOpen : fresh.state = .noStream ∧ fresh.draw.ioFault = false := by decide
theorem test_witness_OpenReadsTheHeader :
    let s := { fresh with src := headerA ++ [1] }
    s.state = .noStream ∧ s.draw.ioFault = false ∧
    s.src.drop s.srcOff = 0x11 :: 0x2B :: 0x10 :: 0 :: 0 :: 0 :: 0x20 :: 0 :: 0 :: 0 :: 0x02 :: 0x01 :: [1] := by
  decide
theorem test_witness_OpenFailsEagerly :
    let f := faulty { fresh with src := headerA }
    let h := { fresh with src := headerA.take 11 }
    (f.state = .noStream ∧ f.draw.ioFault = true) ∧
    (h.state = .noStream ∧ h.draw.ioFault = false ∧ (h.src.drop h.srcOff).length < 12) := by decide
theorem test_witness_ChunkHeaderIsRecorded :
    let s := running .chdr 99
    let n := { s with cfg := { cfg with magicCheck := false } }
    (workerAt .chdr s ∧ s.draw.ioFault = false ∧ (0xDEAF : BitVec 32) = s.cfg.chunkMagic) ∧
    (workerAt .chdr n ∧ n.draw.ioFault = false ∧ n.cfg.magicCheck = false) := by decide
theorem test_witness_BadMagicFailsTheStream :
    let s := running .chdr 99
    workerAt .chdr s ∧ s.draw.ioFault = false ∧ s.cfg.magicCheck = true ∧ (1 : BitVec 32) ≠ s.cfg.chunkMagic := by
  decide
theorem test_witness_ShortChunkHeaderFailsTheStream :
    workerAt .chdr (running .chdr 99) ∧ (running .chdr 99).draw.ioFault = false ∧
    (1 ≤ [(1 : Byte)].length ∧ [(1 : Byte)].length < 8) ∧
    (1 ≤ (headerA.take 7).length ∧ (headerA.take 7).length < 8) := by decide
/-- A state on each side of the last clause, and the boundary: a sink fault keeps `PHASE` at `DELIVER` (R201). -/
theorem test_witness_StatusReadsAnswerTheRegister :
    let l := { fresh with state := .failed, err := .ioFailure, phase := .chdr }
    let d := { fresh with state := .failed, err := .ioFailure, phase := .deliver }
    (l.err = .ioFailure ∧ (l.state = .openFail ∨ l.state = .failed ∧ l.phase ≠ .deliver)) ∧
    ¬ (d.err = .ioFailure ∧ (d.state = .openFail ∨ d.state = .failed ∧ d.phase ≠ .deliver)) := by decide

theorem test_witness_ImaDiffIsTheTruncatedSum : (32767 ≤ 32767) ∧ imaDiff 32767 7 = 61436 ∧ imaDiff 7 7 = 11 := by decide
theorem test_witness_ImaCodeStep : codecAt 99 (decoding 99 [0x97] 4) := by decide
theorem test_witness_ImaByteIsTwoCodes : codecAt 99 (decoding 99 [0x97] 4) := by decide
/-- V27 for the result; and a chunk of no byte. -/
theorem test_witness_ImaChunkRefinesTheIntegerDecoder :
    let s := decoding 99 [0x97] 4
    let e := decoding 99 [] 0
    (codecAt 99 s ∧ s.outbuf = [] ∧ s.payload.length = s.chEnc.toNat ∧ s.chDec.toNat = 4 * s.chEnc.toNat ∧
      (([0x0B, 0x00, 0x05, 0x00], (7, 5)) : List Int × (Nat × Int))
        = Reference.imaDecode s.cfg (s.imaIndex.val, s.imaPred.toInt) s.payload) ∧
    (codecAt 99 e ∧ e.outbuf = [] ∧ e.payload.length = e.chEnc.toNat ∧ e.chDec.toNat = 4 * e.chEnc.toNat) := by decide
theorem test_witness_ImaSizeMismatchFailsTheStream :
    let s := decoding 99 [0x97] 3
    codecAt 99 s ∧ s.chDec.toNat ≠ 4 * s.chEnc.toNat ∧ Instr.dispatch ∈ [Instr.ima4Chunk, .selIma4, .dispatch] := by
  decide

theorem test_witness_Ws8EmitIsChecked :
    let r := decoding 1 [] 1
    let f := decoding 1 [] 0
    (codecAt 1 r ∧ r.outbuf.length ≠ r.chDec.toNat) ∧ (codecAt 1 f ∧ f.outbuf.length = f.chDec.toNat) := by decide
theorem test_witness_Ws8RunRepeatsThePredictor :
    let s := decoding 1 [] 127
    codecAt 1 s ∧ s.outbuf.length ≤ s.chDec.toNat ∧
    s.outbuf.length + (127 : BitVec 7).toNat ≤ s.chDec.toNat ∧
    { s with chDec := 126 }.outbuf.length ≤ { s with chDec := 126 }.chDec.toNat ∧
    { s with chDec := 126 }.chDec.toNat < { s with chDec := 126 }.outbuf.length + (127 : BitVec 7).toNat := by decide
/-- V42 for the two results. -/
theorem test_witness_Ws8DeltaAddsTwoCodes :
    let s := decoding 1 [] 2
    codecAt 1 s ∧ s.outbuf.length ≤ s.chDec.toNat ∧
    125 = Reference.ws8Step s.cfg s.ws8Pred.toNat (2 : BitVec 3).toNat ∧
    130 = Reference.ws8Step s.cfg 125 (3 : BitVec 4).toNat ∧ s.outbuf.length + 2 ≤ s.chDec.toNat ∧
    { s with chDec := 1 }.outbuf.length ≤ { s with chDec := 1 }.chDec.toNat ∧
    { s with chDec := 1 }.chDec.toNat < { s with chDec := 1 }.outbuf.length + 2 := by decide
theorem test_witness_Ws8ByteRunsItsClass :
    let s := decoding 1 [] 2
    codecAt 1 s ∧
    (([0x80, 0x80], 0x80) : List Int × Int) = Reference.ws8Decode s.cfg s.ws8Pred.toNat [0x82] ∧
    (([0x7D, 0x82], 0x82) : List Int × Int) = Reference.ws8Decode s.cfg s.ws8Pred.toNat [0x23] ∧
    s.outbuf.length + 2 ≤ s.chDec.toNat := by decide
/-- V45 for the result. -/
theorem test_witness_Ws8ChunkRefinesTheIntegerDecoder :
    let s := decoding 1 [0x83, 0x23] 5
    let r : List Int × Int := ([0x80, 0x80, 0x80, 0x7D, 0x82], 0x82)
    codecAt 1 s ∧ s.outbuf = [] ∧ s.payload.length = s.chEnc.toNat ∧
    r = Reference.ws8Decode s.cfg s.ws8Pred.toNat s.payload ∧ r.1.length = s.chDec.toNat := by decide
theorem test_witness_Ws8SizeMismatchFailsTheStream :
    let s := decoding 1 [0x83, 0x23] 4
    let t := decoding 1 [0x83, 0x23] 6
    codecAt 1 s ∧ s.outbuf = [] ∧ s.payload.length = s.chEnc.toNat ∧
    (Reference.ws8Decode s.cfg s.ws8Pred.toNat s.payload).1.length ≠ s.chDec.toNat ∧
    codecAt 1 t ∧ t.outbuf = [] ∧ t.payload.length = t.chEnc.toNat ∧
    (Reference.ws8Decode t.cfg t.ws8Pred.toNat t.payload).1.length ≠ t.chDec.toNat := by decide

theorem test_witness_SourceFaultFailsTheStream :
    let c := faulty (running .chdr 99)
    let p := faulty { running .payload 99 with chEnc := 2 }
    (c.draw.ioFault = true ∧ workerAt .chdr c) ∧
    (p.draw.ioFault = true ∧ workerAt .payload p ∧ [(1 : Byte), 2].length ≤ p.chEnc.toNat) := by decide
theorem test_witness_EndOfSourceClosesTheStream :
    workerAt .chdr (running .chdr 99) ∧ (running .chdr 99).draw.ioFault = false := by decide
theorem test_witness_PayloadIsReadWhole :
    let s := { running .payload 99 with chEnc := 2 }
    workerAt .payload s ∧ s.draw.ioFault = false ∧ [(1 : Byte), 2].length = s.chEnc.toNat ∧
    [(1 : Byte)].length < s.chEnc.toNat := by decide
theorem test_witness_DispatchRunsTheSelectedArm : workerAt .decode (decoding 99 [0x97] 4) := by decide
theorem test_witness_UnsupportedCodecFailsTheStream :
    codecAt 5 (decoding 5 [0, 0] 4) ∧ (5 : BitVec 8) ≠ 1 ∧ (5 : BitVec 8) ≠ 99 ∧
    Instr.dispatch ∈ [Instr.selUnsupported 5, .dispatch] := by decide
theorem test_witness_DeliverPushesTheNextByte :
    let l := { delivering with dlvPtr := 1 }
    (workerAt .deliver delivering ∧ delivering.outbuf.length ≤ 65535 ∧
      delivering.outbuf[delivering.dlvPtr.toNat]? = some 5 ∧ delivering.chan.length < delivering.cfg.chanCap ∧
      delivering.callerClosed = false ∧ delivering.draw.ioFault = false) ∧
    (workerAt .deliver l ∧ l.outbuf.length ≤ 65535 ∧ l.outbuf[l.dlvPtr.toNat]? = some 6 ∧
      l.chan.length < l.cfg.chanCap ∧ l.callerClosed = false ∧ l.draw.ioFault = false) := by decide
theorem test_witness_DeliverWithoutAPush :
    let e := running .deliver 99
    let b := { delivering with chan := [8, 9] }
    let f := faulty delivering
    (workerAt .deliver e ∧ e.dlvPtr.toNat = e.outbuf.length) ∧
    (workerAt .deliver b ∧ b.dlvPtr.toNat < b.outbuf.length ∧ b.cfg.chanCap ≤ b.chan.length) ∧
    (workerAt .deliver f ∧ f.dlvPtr.toNat < f.outbuf.length ∧ f.chan.length < f.cfg.chanCap ∧
      f.callerClosed = false ∧ f.draw.ioFault = true) := by decide
theorem test_witness_CancelEndsTheStream :
    let s := { running .deliver 99 with cancelReq := true, callerClosed := true }
    s.state = .running ∧ s.cancelReq = true := by decide

theorem test_witness_StartRunsTheWorker :
    { fresh with state := .idle }.state = .idle ∧ { fresh with state := .idle }.callerClosed = false := by decide
theorem test_witness_ReadReturnsBufferedBytes :
    delivering.state ≠ .noStream ∧ delivering.state ≠ .openFail ∧ delivering.callerClosed = false ∧ 1 ≤ 4 ∧
    delivering.failSeen = false ∧ delivering.sinkEnd ≠ .abnormal ∧ delivering.chan ≠ [] := by decide
/-- The count at the top of its range. -/
theorem test_witness_ReadReturnsBufferedBytes_count :
    let s := { delivering with chan := [8, 9] }
    s.state ≠ .noStream ∧ s.state ≠ .openFail ∧ s.callerClosed = false ∧ 1 ≤ 4 ∧ s.failSeen = false ∧
    s.sinkEnd ≠ .abnormal ∧ s.chan ≠ [] ∧ 1 ≤ 2 ∧ 2 ≤ min 4 s.chan.length := by decide
theorem test_witness_ReadOfAnEmptyChannel :
    let e := { fresh with state := .closed, sinkEnd := .eof }
    let o := running .chdr 99
    (e.state ≠ .noStream ∧ e.state ≠ .openFail ∧ e.callerClosed = false ∧ e.failSeen = false ∧ e.chan = [] ∧
      e.sinkEnd = .eof) ∧
    (o.state ≠ .noStream ∧ o.state ≠ .openFail ∧ o.callerClosed = false ∧ o.failSeen = false ∧ o.chan = [] ∧
      o.sinkEnd = .isOpen) := by decide
theorem test_witness_ReadAfterAnAbnormalClose :
    let e := { failedStream with chan := [] }
    let r := { failedStream with draw := ⟨false, 0, true, false⟩ }
    (failedStream.state ≠ .noStream ∧ failedStream.state ≠ .openFail ∧ failedStream.callerClosed = false ∧
      failedStream.failSeen = false ∧ failedStream.sinkEnd = .abnormal ∧
      ¬ (failedStream.chan = [] ∨ failedStream.draw.readError = true)) ∧
    (e.callerClosed = false ∧ e.failSeen = false ∧ e.sinkEnd = .abnormal ∧ e.chan = []) ∧
    (r.callerClosed = false ∧ r.failSeen = false ∧ r.sinkEnd = .abnormal ∧ r.draw.readError = true) := by decide
theorem test_witness_FailureIsSticky_answer :
    surfaced.failSeen = true ∧ surfaced.state ≠ .noStream ∧ surfaced.state ≠ .openFail ∧
    surfaced.callerClosed = false ∧ 1 ≤ 3 := by decide
theorem test_witness_FailureIsSticky_first :
    ∃ t, exec (.readCmd 3) { failedStream with chan := [] } = .next t ∧
      ∃ e, t.results = { failedStream with chan := [] }.results ++ [.error e] := ⟨_, rfl, .sizeMismatch, rfl⟩
theorem test_witness_FailureIsSticky_step :
    RegInv surfaced ∧ surfaced.failSeen = true ∧ (∀ cfg src ts, surfaced.turns ≠ .reset cfg src :: ts) ∧
    ∃ t, step surfaced = .next t := ⟨test_inv_surfaced, rfl, by simp [surfaced, ask], _, rfl⟩
theorem test_witness_CloseByState :
    let i := { fresh with state := .idle }
    (delivering.callerClosed = false ∧ delivering.state = .running) ∧
    (failedStream.callerClosed = false ∧ failedStream.state = .failed) ∧
    (i.callerClosed = false ∧ i.state = .idle) := by decide
theorem test_witness_CloseByState_noStream : fresh.state = .noStream := by decide

theorem test_witness_TerminalStatesAreLeftOnlyByReset :
    surfaced.state = .failed ∧ (∀ cfg src ts, surfaced.turns ≠ .reset cfg src :: ts) ∧
    ∃ t, step surfaced = .next t := ⟨rfl, by simp [surfaced, ask], _, rfl⟩
theorem test_witness_HeaderRegistersAreImmutable :
    (∀ cfg src ts, delivering.turns ≠ .reset cfg src :: ts) ∧ delivering.state ≠ .noStream ∧
    ∃ t, step delivering = .next t := ⟨by simp [delivering, quiet], by decide, _, rfl⟩
/-- The decode of a WS8 chunk, whose step leaves the IMA4 registers. -/
theorem test_witness_OnlyTheSelectedDecoderStateIsWritten :
    let s := { decoding 1 [0x83] 3 with turns := [quiet] }
    s.state = .running ∧ s.fhCtype ≠ 99 ∧ ∃ t, step s = .next t ∧ t.state = .running := ⟨rfl, by decide, _, rfl, rfl⟩
/-- The delivery of an IMA4 byte, whose step leaves all of the decoder state. -/
theorem test_witness_OnlyTheSelectedDecoderStateIsWritten_phase :
    delivering.state = .running ∧ delivering.fhCtype ≠ 1 ∧ delivering.phase ≠ .decode ∧
    ∃ t, step delivering = .next t ∧ t.state = .running := ⟨rfl, by decide, by decide, _, rfl, rfl⟩
theorem test_witness_SourceOffsetNeverDecreases :
    (∀ cfg src ts, delivering.turns ≠ .reset cfg src :: ts) ∧ ∃ t, step delivering = .next t :=
  ⟨by simp [delivering, quiet], _, rfl⟩
theorem test_witness_ChannelIsAFifo_push :
    RegInv delivering ∧ (∀ cfg src ts, delivering.turns ≠ .reset cfg src :: ts) ∧
    ∃ t, step delivering = .next t ∧ t.callerClosed = delivering.callerClosed ∧ t.failSeen = delivering.failSeen :=
  ⟨test_inv_delivering, by simp [delivering, quiet], _, rfl, rfl, rfl⟩
theorem test_witness_ChannelIsAFifo_pop :
    let s := { delivering with turns := [ask], cmds := [.read 1] }
    RegInv s ∧ (∀ cfg src ts, s.turns ≠ .reset cfg src :: ts) ∧
    ∃ t, step s = .next t ∧ t.callerClosed = s.callerClosed ∧ t.failSeen = s.failSeen :=
  ⟨test_inv_popping, by simp [ask], _, rfl, rfl, rfl⟩
theorem test_witness_ImaChunkPassesThroughTheLoop :
    workerAt .chdr oneChunk ∧ oneChunk.callerClosed = false ∧ oneChunk.fhCtype = 99 ∧
    [(0x97 : Byte)].length = (1 : BitVec 16).toNat ∧ (4 : BitVec 16).toNat = 4 * (1 : BitVec 16).toNat ∧
    oneChunk.src.drop oneChunk.srcOff
      = bytes16 1 ++ bytes16 4 ++ bytes32 oneChunk.cfg.chunkMagic ++ [0x97] ++ [] ∧
    oneChunk.chan.length + (4 : BitVec 16).toNat ≤ oneChunk.cfg.chanCap ∧ 7 = 3 + max 1 (4 : BitVec 16).toNat ∧
    oneChunk.turns = List.replicate 7 (.worker quietDraw) ++ [] := by decide
theorem test_witness_ImaContainerDecodesToItsBytes :
    let s := { oneChunk with turns := List.replicate 8 quiet }
    let chunks : List (List Byte) := [[0x97]]
    workerAt .chdr s ∧ s.callerClosed = false ∧ s.fhCtype = 99 ∧ (∀ p ∈ chunks, p.length ≤ 16383) ∧
    s.src.drop s.srcOff = (chunks.map fun p =>
      bytes16 (BitVec.ofNat 16 p.length) ++ bytes16 (BitVec.ofNat 16 (4 * p.length))
        ++ bytes32 s.cfg.chunkMagic ++ p).flatten ∧
    s.chan.length + 4 * chunks.flatten.length ≤ s.cfg.chanCap ∧
    8 = (chunks.map fun p => 3 + max 1 (4 * p.length)).sum + 1 ∧
    s.turns = List.replicate 8 (.worker quietDraw) := by decide

/-- A source of one WS8 chunk of two commands (V45), and room for it. -/
def oneWs8Chunk : State :=
  { running .chdr 1 with
    cfg := { cfg with chanCap := 5 }, src := [2, 0, 5, 0, 0xAF, 0xDE, 0, 0, 0x83, 0x23],
    turns := List.replicate 8 quiet }

theorem test_witness_Ws8ChunkPassesThroughTheLoop :
    workerAt .chdr oneWs8Chunk ∧ oneWs8Chunk.callerClosed = false ∧ oneWs8Chunk.fhCtype = 1 ∧
    [(0x83 : Byte), 0x23].length = (2 : BitVec 16).toNat ∧ (5 : BitVec 16).toNat = Reference.ws8Size [0x83, 0x23] ∧
    oneWs8Chunk.src.drop oneWs8Chunk.srcOff
      = bytes16 2 ++ bytes16 5 ++ bytes32 oneWs8Chunk.cfg.chunkMagic ++ [0x83, 0x23] ++ [] ∧
    oneWs8Chunk.chan.length + (5 : BitVec 16).toNat ≤ oneWs8Chunk.cfg.chanCap ∧
    8 = 3 + max 1 (5 : BitVec 16).toNat ∧
    oneWs8Chunk.turns = List.replicate 8 (.worker quietDraw) ++ [] := by decide
theorem test_witness_Ws8ContainerDecodesToItsBytes :
    let s := { oneWs8Chunk with turns := List.replicate 9 quiet }
    let chunks : List (List Byte) := [[0x83, 0x23]]
    workerAt .chdr s ∧ s.callerClosed = false ∧ s.fhCtype = 1 ∧
    (∀ p ∈ chunks, p.length ≤ 65535 ∧ Reference.ws8Size p ≤ 65535) ∧
    s.src.drop s.srcOff = (chunks.map fun p =>
      bytes16 (BitVec.ofNat 16 p.length) ++ bytes16 (BitVec.ofNat 16 (Reference.ws8Size p))
        ++ bytes32 s.cfg.chunkMagic ++ p).flatten ∧
    s.chan.length + Reference.ws8Size chunks.flatten ≤ s.cfg.chanCap ∧
    9 = (chunks.map fun p => 3 + max 1 (Reference.ws8Size p)).sum + 1 ∧
    s.turns = List.replicate 9 (.worker quietDraw) := by decide
/-- After `ERROR` the next `READ` gives the same error. -/
theorem test_witness_RunOverKeepsTheObservation :
    let s := { surfaced with results := [.error .sizeMismatch] }
    RegInv s ∧ runOver s ∧ (∀ cfg src ts, s.turns ≠ .reset cfg src :: ts) ∧ ∃ t, step s = .next t := by
  refine ⟨?_, ?_, by simp [surfaced, ask], _, rfl⟩
  · constructor <;> first
      | decide
      | simp [surfaced, ask, finalAnswer, fresh, failedStream, HostResult.ofRead, HostResult.ending, eq_comm]
  · exact ⟨rfl, .inr (.inr ⟨rfl, by decide⟩)⟩
/-- And after the caller's close. -/
theorem test_witness_RunOverKeepsTheObservation_closed :
    runOver { fresh with state := .closed, closeCause := .cancelled, callerClosed := true } ∧
    runOver { fresh with state := .openFail, err := .ioFailure } := ⟨⟨rfl, .inl rfl⟩, ⟨rfl, .inr (.inl rfl)⟩⟩

end Sys2Proof.Tests
end

