-- ==== Sys2Proof/Proofs/Scope.lean ====
section
/-! SUPPORT. Proofs of the statements about the headers' byte order, the caller's move and the unlisted
moves (30_encoding.md R70, R71; 00_scope.md R14, R18; log 1, 2, 30). -/

namespace Sys2Proof.Machine

/-! ## The caller's move -/

/-- A command that no `READ` holds back goes first (R175, R18). -/
theorem suspendedFetch_command {s : State} {c : HostCmd} {cs : List HostCmd} (n : Nat) (hc : s.cmds = c :: cs)
    (hb : c.besideRead = true) (hr : readBlocked s ∨ s.draw.commandFirst = true) :
    suspendedFetch n s = some (c, { s with cmds := cs }) := by
  rw [suspendedFetch, nextCommand, hc]
  exact if_pos ⟨hb, hr⟩

/-- The suspended `READ` is tried again where no command goes before it (R175, R18). -/
theorem suspendedFetch_read {s : State} (n : Nat)
    (h : ∀ c cs, s.cmds = c :: cs → c.besideRead = false ∨ ¬ readBlocked s ∧ s.draw.commandFirst = false) :
    suspendedFetch n s = some (.read n, s) := by
  rw [suspendedFetch, nextCommand]
  rcases hc : s.cmds with _ | ⟨c, cs⟩
  · rfl
  · refine if_neg fun ⟨hb, hr⟩ => ?_
    rcases h c cs hc with hb' | ⟨hnb, hd⟩
    · simp [hb'] at hb
    · exact hr.elim hnb (by simp [hd])

/-- The next command is fetched by a caller that is free, and by a suspended one whose `READ` lets it go first. -/
theorem callerFetch_command {s : State} {c : HostCmd} {cs : List HostCmd} (hc : s.cmds = c :: cs)
    (h : s.callerWait = none ∨
      (∃ n, s.callerWait = some n) ∧ c.besideRead = true ∧ (readBlocked s ∨ s.draw.commandFirst = true)) :
    callerFetch s = some (c, { s with cmds := cs }) := by
  rcases h with hw | ⟨⟨n, hw⟩, hb, hr⟩
  · rw [callerFetch_free hw, nextCommand, hc]
  · rw [callerFetch_suspended hw, suspendedFetch_command n hc hb hr]

/-- A suspended caller fetches its `READ` where no command goes before it. -/
theorem callerFetch_read {s : State} {n : Nat} (hw : s.callerWait = some n)
    (h : ∀ c cs, s.cmds = c :: cs → c.besideRead = false ∨ ¬ readBlocked s ∧ s.draw.commandFirst = false) :
    callerFetch s = some (.read n, s) := by
  rw [callerFetch_suspended hw, suspendedFetch_read n h]

theorem callerMove_of_fetch {s t : State} {c : HostCmd} (h : callerFetch s = some (c, t)) :
    callerMove s = issue c t := by rw [callerMove, h]

/-- Issuing a command that is a row of the opcode table runs its operation (R183). -/
theorem issue_of_instr {c : HostCmd} {i : Instr} (h : HostCmd.instr? c = some i) (s : State) :
    issue c s = exec i s := by
  cases c <;> cases h <;> rfl

/-! ## Unlisted moves -/

/-- A step depends on the schedule only through the move it takes. -/
theorem step_eq_of_takeTurn_eq {s t : State} (h : takeTurn s = takeTurn t) : step s = step t := by
  rw [step, step, h]

/-- Within a stretch an unlisted move is a move of the stretch's agent (log 2). -/
theorem takeTurn_within_stretch {s : State} {k : Nat} (ht : s.turns = []) (hl : s.freeLeft = k + 1) :
    takeTurn s = takeTurn { s with
      turns := [s.freeMover.turn (Config.freeDraw s.freeCount)], freeMover := s.freeMover, freeLeft := k,
      freeCount := s.freeCount + 1 } := by
  simp only [takeTurn, ht, freeTurn, hl]

/-- At the end of a stretch an unlisted move begins a stretch of the other agent (log 2). -/
theorem takeTurn_after_stretch {s : State} (ht : s.turns = []) (hl : s.freeLeft = 0) :
    takeTurn s = takeTurn { s with
      turns := [s.freeMover.other.turn (Config.freeDraw s.freeCount)], freeMover := s.freeMover.other,
      freeLeft := Config.freeStretch s.freeCount, freeCount := s.freeCount + 1 } := by
  simp only [takeTurn, ht, freeTurn, hl]

theorem Agent.other_ne (a : Agent) : a.other ≠ a := by
  cases a <;> simp [Agent.other]

end Sys2Proof.Machine

namespace Sys2Proof.Proofs

open Sys2Proof Sys2Proof.Machine

/-- Settles O4: each field is `le16` or `le32` of its own bytes, and these are the little-endian numbers. -/
theorem headerFieldsAreLittleEndian : Obligations.HeaderFieldsAreLittleEndian := by
  unfold Obligations.HeaderFieldsAreLittleEndian
  constructor
  · intro h0 h1 h2 h3 h4 h5 h6 h7 h8 h9 h10 h11 rest
    exact ⟨le16 h0 h1, le32 h2 h3 h4 h5, le32 h6 h7 h8 h9, rfl, le16_toNat h0 h1, le32_toNat h2 h3 h4 h5,
      le32_toNat h6 h7 h8 h9⟩
  · intro c0 c1 c2 c3 c4 c5 c6 c7 rest
    exact ⟨le16 c0 c1, le16 c2 c3, le32 c4 c5 c6 c7, rfl, le16_toNat c0 c1, le16_toNat c2 c3,
      le32_toNat c4 c5 c6 c7⟩

/-- Settles O11: the fetch gives the next command, or the suspended `READ`, in the two complementary cases. -/
theorem stepRunsTheCallersCommand : Obligations.StepRunsTheCallersCommand := by
  unfold Obligations.StepRunsTheCallersCommand
  intro s d ts ht
  rw [step_caller ht]
  constructor
  · intro c cs hc hw
    have hf : callerFetch { s with turns := ts, draw := d }
        = some (c, { s with turns := ts, draw := d, cmds := cs }) := callerFetch_command hc hw
    rw [callerMove_of_fetch hf]
    constructor
    · intro i hi
      exact issue_of_instr hi _
    · rintro r rfl
      rfl
  · intro n hw hn
    have hf : callerFetch { s with turns := ts, draw := d } = some (.read n, { s with turns := ts, draw := d }) :=
      callerFetch_read hw hn
    rw [callerMove_of_fetch hf]
    rfl

/-- Settles O14, by whether the stretch of the agent that moves has a move left. -/
theorem unlistedMoveIsAnAgentsOwn : Obligations.UnlistedMoveIsAnAgentsOwn := by
  unfold Obligations.UnlistedMoveIsAnAgentsOwn
  intro s ht
  rcases hl : s.freeLeft with _ | k
  · exact ⟨s.freeMover.other, _, _, step_eq_of_takeTurn_eq (takeTurn_after_stretch ht hl),
      fun _ => Agent.other_ne _, fun h => absurd h (lt_irrefl 0)⟩
  · exact ⟨s.freeMover, _, k, step_eq_of_takeTurn_eq (takeTurn_within_stretch ht hl),
      fun h => absurd h k.succ_ne_zero, fun _ => ⟨rfl, rfl⟩⟩

end Sys2Proof.Proofs
end

section
/-! SUPPORT. Proofs of the statements about the state: the reset values, the invariant of the registers, and
what every step leaves of the header, of the decoder state and of `SRC_OFF` (10_state.md). -/

namespace Sys2Proof.Machine

variable {s t : State}

/-! ## `CLOSE` by the state of the stream (R177) -/

/-- A stream that exists is idle, runs, or has ended (R24). -/
theorem headerKnown_cases (h : headerKnown s) :
    s.state = .idle ∨ s.state = .running ∨ s.state.terminal = true := by
  cases hs : s.state <;> simp_all [headerKnown, StreamState.terminal]

theorem ne_of_terminal (h : s.state.terminal = true) :
    s.state ≠ .noStream ∧ s.state ≠ .idle ∧ s.state ≠ .running := by
  refine ⟨?_, ?_, ?_⟩ <;> intro e <;> simp [e, StreamState.terminal] at h

theorem closeStream_idle (h : s.state = .idle) :
    closeStream s = { discardDecoder s with state := .closed, closeCause := .cancelled } := by
  rw [closeStream, h]

theorem closeStream_running (h : s.state = .running) : closeStream s = { s with cancelReq := true } := by
  rw [closeStream, h]

theorem closeStream_terminal (h : s.state.terminal = true) : closeStream s = s := by
  rw [closeStream]
  split <;> simp_all [StreamState.terminal]

/-! ## What the invariant says before the end of a stream -/

/-- Nothing of an end has been seen: no failure is taken, the sink is open, no `READ` has answered `END` or
`ERROR`, and `SRC_OFF` holds its value. -/
structure Unended (s : State) : Prop where
  err : s.err = .none
  sinkEnd : s.sinkEnd = .isOpen
  failSeen : s.failSeen = false
  noEnd : finalAnswer s.results ≠ some .endOfStream
  noError : ∀ e, finalAnswer s.results ≠ some (.error e)
  srcOff : s.srcOff ≤ s.src.length

/-- Before a terminal state the invariant leaves no trace of an end. -/
theorem RegInv.unended (h : RegInv s) (hs : s.state.terminal = false) : Unended s := by
  obtain ⟨hclosed, hfailed, hopenFail⟩ :
      s.state ≠ .closed ∧ s.state ≠ .failed ∧ s.state ≠ .openFail := by
    refine ⟨?_, ?_, ?_⟩ <;> intro e <;> simp [e, StreamState.terminal] at hs
  have herr : s.err = .none := not_not.1 fun he => (h.errIff.1 he).elim hfailed hopenFail
  have habnormal : s.sinkEnd ≠ .abnormal := fun he => hfailed (h.abnormalIff.1 he)
  have heof : s.sinkEnd ≠ .eof := fun he => hclosed (h.eofIff.1 he).1
  have hseen : s.failSeen ≠ true := fun he => habnormal (h.failSeenAbnormal he).1
  exact {
    err := herr
    sinkEnd := by
      cases he : s.sinkEnd
      · rfl
      · exact absurd he heof
      · exact absurd he habnormal
    failSeen := Bool.eq_false_iff.2 hseen
    noEnd := fun he => heof (h.endSeen he)
    noError := fun e he => hseen (h.errorSeen e he).1
    srcOff := h.srcBound.resolve_right fun hl => hl.2.elim hopenFail fun hf => hfailed hf.1 }

theorem RegInv.unended_of_running (h : RegInv s) (hs : s.state = .running) : Unended s :=
  h.unended (by rw [hs]; rfl)

/-- A running worker that is not asked to end has a caller that has not closed (R177). -/
theorem RegInv.callerOpen (h : RegInv s) (hs : s.state = .running) (hc : s.cancelReq = false) :
    s.callerClosed = false :=
  Bool.eq_false_iff.2 fun hcl => by simp [(h.closedCaller hcl).2.2.2 hs] at hc

/-- In `NoStream` the caller has not closed and waits for nothing (R175, R177). -/
theorem RegInv.noCaller (h : RegInv s) (hs : s.state = .noStream) :
    s.callerClosed = false ∧ s.cancelReq = false ∧ s.callerWait = none := by
  have hk : ¬ headerKnown s := fun hk => hk.1 hs
  have hcl : s.callerClosed ≠ true := fun hcl => hk (h.closedCaller hcl).2.1
  exact ⟨Bool.eq_false_iff.2 hcl, Bool.eq_false_iff.2 fun hc => hcl (h.cancelClosed hc),
    Option.eq_none_iff_forall_ne_some.2 fun n hw => hk (h.waiting n hw).1⟩

/-- The invariant reads of the model's own fields only the sessions that the schedule still opens. -/
theorem RegInv.of_schedule (h : RegInv s) {ts : List Turn} (hts : ∀ u ∈ ts, u ∈ s.turns)
    (d : Draw) (n : Nat) (m : Agent) (l : Nat) (cs : List HostCmd) :
    RegInv { s with turns := ts, draw := d, freeCount := n, freeMover := m, freeLeft := l, cmds := cs } :=
  { h with scheduleCap := fun cfg src hm => h.scheduleCap cfg src (hts _ hm) }

/-! ## The worker's moves keep the invariant -/

/-- R178. -/
theorem RegInv.cancelled (h : RegInv s) (hs : s.state = .running) (hc : s.cancelReq = true) :
    RegInv { discardDecoder s with
      state := .closed, closeCause := .cancelled, outbuf := [], payload := [] } := by
  have hu := h.unended_of_running hs
  have hchan : s.chan = [] := (h.closedCaller (h.cancelClosed hc)).1
  exact { h with
    outbufBound := by simp
    payloadBound := by simp
    srcBound := .inl hu.srcOff
    payloadPhase := nofun
    decodePhase := nofun
    deliverPhase := nofun
    errIff := by simp [hu.err]
    abnormalIff := by simp [hu.sinkEnd]
    eofIff := by simp [hu.sinkEnd]
    closedCaller := fun _ => ⟨hchan, by simp [headerKnown], by simp, nofun⟩
    beforeStart := fun _ => hchan
    waiting := fun n hw => ⟨by simp [headerKnown], (h.waiting n hw).2⟩ }

/-- R102, R163: the header is read into the registers and the buffers are emptied. -/
theorem RegInv.header (h : RegInv s) (ho : s.srcOff + 8 ≤ s.src.length)
    (e d : BitVec 16) (m : BitVec 32) :
    RegInv { beginChunk s with
      chEnc := e, chDec := d, chMagic := m, srcOff := s.srcOff + 8, phase := .payload } :=
  { h with
    outbufBound := by simp
    payloadBound := by simp
    srcBound := .inl ho
    payloadPhase := fun _ _ => ⟨rfl, rfl⟩
    decodePhase := nofun
    deliverPhase := nofun }

/-- R162. -/
theorem RegInv.endOfSource (h : RegInv s) (hw : workerAt .chdr s) :
    RegInv { discardDecoder (beginChunk s) with state := .closed, closeCause := .normal, sinkEnd := .eof } := by
  obtain ⟨hs, hc, -⟩ := hw
  have hu := h.unended_of_running hs
  have hcl := h.callerOpen hs hc
  exact { h with
    outbufBound := by simp
    payloadBound := by simp
    srcBound := .inl hu.srcOff
    payloadPhase := nofun
    decodePhase := nofun
    deliverPhase := nofun
    errIff := by simp [hu.err]
    abnormalIff := by simp
    eofIff := by simp
    failSeenAbnormal := by simp [hu.failSeen]
    closedCaller := by simp [hcl]
    beforeStart := by simp
    waiting := fun n hw => ⟨by simp [headerKnown], (h.waiting n hw).2⟩
    endSeen := fun _ => rfl }

/-- R164. -/
theorem RegInv.payloadRead (h : RegInv s) (hw : workerAt .payload s) {p : List Byte}
    (hp : p.length = s.chEnc.toNat) (ho : p.length = 0 ∨ s.srcOff + p.length ≤ s.src.length) :
    RegInv { s with payload := p, phase := .decode, srcOff := s.srcOff + p.length } := by
  have hsrc := (h.unended_of_running hw.1).srcOff
  exact { h with
    payloadBound := by have := s.chEnc.isLt; simp only; omega
    srcBound := .inl (by simp only; omega)
    payloadPhase := nofun
    decodePhase := fun _ _ => ⟨(h.payloadPhase hw.1 hw.2.2).1, hp⟩
    deliverPhase := nofun }

/-- R165: what the decode leaves is the chunk that is delivered. -/
theorem RegInv.decoded (h : RegInv s) (hw : workerAt .decode s)
    (ht : t = { s with
      imaIndex := t.imaIndex, imaPred := t.imaPred, ws8Pred := t.ws8Pred, outbuf := t.outbuf })
    (hl : s.outbuf = [] → s.payload.length = s.chEnc.toNat → t.outbuf.length = s.chDec.toNat) :
    RegInv { t with dlvPtr := 0, phase := .deliver } := by
  obtain ⟨hout, hpay⟩ := h.decodePhase hw.1 hw.2.2
  have hlen := hl hout hpay
  have hsrc := (h.unended_of_running hw.1).srcOff
  rw [ht]
  exact { h with
    outbufBound := by have := s.chDec.isLt; simp only; omega
    srcBound := .inl hsrc
    payloadPhase := nofun
    decodePhase := nofun
    deliverPhase := fun _ _ => ⟨hlen, Nat.zero_le _⟩ }

/-- R168: the end of `DELIVER`. -/
theorem RegInv.deliverEnd (h : RegInv s) (hs : s.state = .running) : RegInv (deliverEnd s) := by
  have hsrc := (h.unended_of_running hs).srcOff
  rw [Machine.deliverEnd]
  split_ifs
  · exact { h with
      srcBound := .inl hsrc
      payloadPhase := nofun
      decodePhase := nofun
      deliverPhase := nofun }
  · exact h

/-- R168: one byte. -/
theorem RegInv.pushed (h : RegInv s) (hw : workerAt .deliver s) {b : Byte}
    (hb : s.outbuf[s.dlvPtr.toNat]? = some b) (hr : chanHasRoom s) :
    RegInv { s with chan := s.chan ++ [b], dlvPtr := s.dlvPtr + 1 } := by
  obtain ⟨hs, hc, hph⟩ := hw
  obtain ⟨hroom, hcl⟩ := hr
  have hu := h.unended_of_running hs
  have hlt : s.dlvPtr.toNat < s.outbuf.length := (List.getElem?_eq_some_iff.1 hb).1
  have hptr : (s.dlvPtr + 1).toNat = s.dlvPtr.toNat + 1 := by
    have := h.outbufBound
    rw [BitVec.toNat_add]; simp; omega
  exact { h with
    chanBound := by simp only [List.length_append, List.length_singleton]; omega
    payloadPhase := by simp [hph]
    decodePhase := by simp [hph]
    deliverPhase := fun _ _ => ⟨(h.deliverPhase hs hph).1, by simp only [hptr]; omega⟩
    failSeenAbnormal := by simp [hu.failSeen]
    closedCaller := by simp [hcl]
    beforeStart := by simp [hs] }

/-- R206: whatever the buffers and the chunk's registers held before it. -/
theorem RegInv.failed (h : RegInv s) (hs : s.state = .running) (hc : s.cancelReq = false)
    {e : ErrorCode} {m : State}
    (hm : m = { s with
      outbuf := m.outbuf, payload := m.payload, dlvPtr := m.dlvPtr, chEnc := m.chEnc, chDec := m.chDec,
      chMagic := m.chMagic, srcOff := m.srcOff, imaIndex := m.imaIndex, imaPred := m.imaPred,
      ws8Pred := m.ws8Pred, freeCount := m.freeCount })
    (he : e ≠ .none)
    (ho : s.srcOff ≤ m.srcOff ∧ (s.srcOff ≤ s.src.length → m.srcOff ≤ s.src.length) ∨
      e = .ioFailure ∧ s.phase ≠ .deliver) :
    RegInv (fail e m) := by
  have hu := h.unended_of_running hs
  have hcl := h.callerOpen hs hc
  rw [hm]
  exact { h with
    outbufBound := by simp
    payloadBound := by simp
    srcBound := ho.imp (fun ho => ho.2 hu.srcOff) (fun ho => ⟨ho.1, .inr ⟨rfl, ho.2⟩⟩)
    payloadPhase := nofun
    decodePhase := nofun
    deliverPhase := nofun
    errIff := by simp [he]
    abnormalIff := by simp
    eofIff := by simp
    failSeenAbnormal := by simp [hu.failSeen]
    closedCaller := by simp [hcl]
    beforeStart := by simp
    waiting := fun n hw => ⟨by simp [headerKnown], (h.waiting n hw).2⟩
    endSeen := fun hf => absurd hf hu.noEnd
    errorSeen := fun e hf => absurd hf (hu.noError e) }

/-- Every move of the worker keeps the invariant. -/
theorem WorkerEffect.keeps_regInv (he : WorkerEffect s t) (h : RegInv s) : RegInv t := by
  cases he with
  | waits => exact h
  | cancelled hs hc => exact h.cancelled hs hc
  | header e d m _ ho => exact h.header ho e d m
  | endOfSource hw => exact h.endOfSource hw
  | payloadRead p hw hp ho => exact h.payloadRead hw hp ho
  | decoded t hw ht hl _ _ => exact h.decoded hw ht hl
  | pushed b hw hb hr => exact (h.pushed hw hb hr).deliverEnd hw.1
  | delivered hw _ => exact h.deliverEnd hw.1
  | failed e m hs hc hm he ho => exact h.failed hs hc hm he ho

/-! ## The caller's moves keep the invariant -/

/-- R160. -/
theorem RegInv.opened (h : RegInv s) (hs : s.state = .noStream) (ho : s.srcOff + 12 ≤ s.src.length)
    (f : BitVec 16) (d o : BitVec 32) (fl c : BitVec 8) :
    RegInv (openStream { s with
      fhFreq := f, fhDataSize := d, fhOutSize := o, fhFlags := fl, fhCtype := c,
      srcOff := s.srcOff + 12 }) := by
  have hu := h.unended (by rw [hs]; rfl)
  obtain ⟨-, -, hwait⟩ := h.noCaller hs
  exact { h with
    chanBound := by simp
    srcBound := .inl ho
    payloadPhase := nofun
    decodePhase := nofun
    deliverPhase := nofun
    errIff := by simp
    abnormalIff := by simp
    eofIff := by simp
    failSeenAbnormal := nofun
    closedCaller := nofun
    cancelClosed := nofun
    beforeStart := fun _ => rfl
    waiting := by simp [hwait]
    endSeen := fun hf => absurd hf hu.noEnd
    errorSeen := fun e hf => absurd hf (hu.noError e) }

/-- R207. -/
theorem RegInv.openFailed (h : RegInv s) (hs : s.state = .noStream) {e : ErrorCode} {m : State}
    (hm : m = { s with srcOff := m.srcOff, freeCount := m.freeCount }) (he : e ≠ .none)
    (ho : s.srcOff ≤ m.srcOff ∧ (s.srcOff ≤ s.src.length → m.srcOff ≤ s.src.length) ∨ e = .ioFailure) :
    RegInv (openFail e m) := by
  have hu := h.unended (by rw [hs]; rfl)
  obtain ⟨hcl, -, hwait⟩ := h.noCaller hs
  rw [hm]
  exact { h with
    srcBound := ho.imp (fun ho => ho.2 hu.srcOff) (fun ho => ⟨ho, .inl rfl⟩)
    payloadPhase := nofun
    decodePhase := nofun
    deliverPhase := nofun
    errIff := by simp [he]
    abnormalIff := by simp [hu.sinkEnd]
    eofIff := by simp [hu.sinkEnd]
    closedCaller := by simp [hcl]
    beforeStart := fun _ => h.beforeStart (.inl hs)
    waiting := by simp [hwait]
    endSeen := fun hf => absurd hf hu.noEnd
    errorSeen := fun e hf => absurd hf (hu.noError e) }

/-- R170. -/
theorem RegInv.started (h : RegInv s) (hs : s.state = .idle) (hc : s.callerClosed = false) :
    RegInv { s with state := .running, phase := .chdr } := by
  have hu := h.unended (by rw [hs]; rfl)
  exact { h with
    srcBound := .inl hu.srcOff
    payloadPhase := nofun
    decodePhase := nofun
    deliverPhase := nofun
    errIff := by simp [hu.err]
    abnormalIff := by simp [hu.sinkEnd]
    eofIff := by simp [hu.sinkEnd]
    closedCaller := by simp [hc]
    beforeStart := by simp
    waiting := fun n hw => ⟨by simp [headerKnown], (h.waiting n hw).2⟩ }

/-- An answer that agrees with the registers (R175, R176): `END` after a normal close, and `ERROR(ERR)` where
the failure has surfaced. -/
theorem RegInv.answer (h : RegInv s) {r : HostResult} (hr : r.ofRead = true)
    (hend : r.ending = some .endOfStream → s.sinkEnd = .eof)
    (herr : ∀ e, r.ending = some (.error e) → s.failSeen = true ∧ e = s.err) :
    RegInv (answer r s) :=
  { h with
    waiting := nofun
    endSeen := fun hf => hend (by simpa [finalAnswer_append, hr] using hf)
    errorSeen := fun e hf => herr e (by simpa [finalAnswer_append, hr] using hf) }

/-- An answer of a status function or a status read decides no end (R180). -/
theorem RegInv.record (h : RegInv s) {r : HostResult} (hr : r.ofRead = false) : RegInv (record r s) :=
  { h with
    endSeen := fun hf => h.endSeen (by simpa [finalAnswer_append, hr] using hf)
    errorSeen := fun e hf => h.errorSeen e (by simpa [finalAnswer_append, hr] using hf) }

/-- Bytes may leave the head of `CHAN` (R56). -/
theorem RegInv.drop_chan (h : RegInv s) (k : Nat) : RegInv { s with chan := s.chan.drop k } :=
  { h with
    chanBound := by have := h.chanBound; simp only [List.length_drop]; omega
    failSeenAbnormal := fun hf => by simp [h.failSeenAbnormal hf]
    closedCaller := fun hc => by simpa [(h.closedCaller hc).1] using (h.closedCaller hc).2
    beforeStart := fun hb => by simp [h.beforeStart hb] }

/-- R175. -/
theorem RegInv.popped (h : RegInv s) (k : Nat) : RegInv (chanPop k s) :=
  (h.drop_chan k).answer rfl nofun nofun

/-- R175 (b): the failure surfaces, and what is buffered is dropped. -/
theorem RegInv.surfaced (h : RegInv s) (ha : s.sinkEnd = .abnormal) :
    RegInv (Machine.answer (.error s.err) { s with failSeen := true, chan := [] }) := by
  have hseen : RegInv { s with failSeen := true, chan := [] } :=
    { h with
      chanBound := by simp
      failSeenAbnormal := fun _ => ⟨ha, rfl⟩
      closedCaller := fun hc => ⟨rfl, (h.closedCaller hc).2⟩
      beforeStart := fun _ => rfl
      errorSeen := fun e hf => ⟨rfl, (h.errorSeen e hf).2⟩ }
  exact hseen.answer rfl nofun fun e he => ⟨rfl, by simpa [HostResult.ending] using he.symm⟩

/-- R175, R176: `END`, or the same `ERROR` again. -/
theorem RegInv.ended (h : RegInv s) {r : HostResult}
    (hr : (r = .error s.err ∧ s.failSeen = true) ∨
      (r = .endOfStream ∧ s.failSeen = false ∧ s.sinkEnd = .eof ∧ s.chan = [])) :
    RegInv (Machine.answer r s) := by
  rcases hr with ⟨rfl, hf⟩ | ⟨rfl, -, heof, -⟩
  · exact h.answer rfl nofun fun e he => ⟨hf, by simpa [HostResult.ending] using he.symm⟩
  · exact h.answer rfl (fun _ => heof) nofun

/-- R175: the caller is suspended. -/
theorem RegInv.suspended (h : RegInv s) {n : Nat} (hk : headerKnown s) (hc : s.callerClosed = false)
    (hn : 1 ≤ n) : RegInv { s with callerWait := some n } :=
  { h with waiting := fun m hm => by cases hm; exact ⟨hk, hc, hn⟩ }

/-- R177, by the state of the stream. -/
theorem RegInv.closed (h : RegInv s) (hk : headerKnown s) :
    RegInv (closeStream { s with callerClosed := true, chan := [], callerWait := none }) := by
  rcases headerKnown_cases hk with hs | hs | hs
  · have hu := h.unended (by rw [hs]; rfl)
    rw [closeStream_idle (by exact hs)]
    exact { h with
      chanBound := by simp
      srcBound := .inl hu.srcOff
      payloadPhase := nofun
      decodePhase := nofun
      deliverPhase := nofun
      errIff := by simp [hu.err]
      abnormalIff := by simp [hu.sinkEnd]
      eofIff := by simp [hu.sinkEnd]
      failSeenAbnormal := by simp [hu.failSeen]
      closedCaller := fun _ => ⟨rfl, by simp [headerKnown], by simp, nofun⟩
      cancelClosed := fun _ => rfl
      beforeStart := fun _ => rfl
      waiting := nofun }
  · have hu := h.unended_of_running hs
    rw [closeStream_running (by exact hs)]
    exact { h with
      chanBound := by simp
      failSeenAbnormal := by simp [hu.failSeen]
      closedCaller := fun _ => ⟨rfl, hk, by simp [hs], fun _ => rfl⟩
      cancelClosed := fun _ => rfl
      beforeStart := fun _ => rfl
      waiting := nofun }
  · obtain ⟨-, hidle, hrunning⟩ := ne_of_terminal hs
    rw [closeStream_terminal (by exact hs)]
    exact { h with
      chanBound := by simp
      failSeenAbnormal := fun hf => ⟨(h.failSeenAbnormal hf).1, rfl⟩
      closedCaller := fun _ => ⟨rfl, hk, hidle, fun hr => absurd hr hrunning⟩
      cancelClosed := fun _ => rfl
      beforeStart := fun _ => rfl
      waiting := nofun }

/-- Every command of the caller keeps the invariant. -/
theorem CallerEffect.keeps_regInv (he : CallerEffect s t) (h : RegInv s) : RegInv t := by
  cases he with
  | nothing => exact h
  | opened f d o fl c hs ho => exact h.opened hs ho f d o fl c
  | openFailed e m hs hm he ho => exact h.openFailed hs hm he ho
  | started hs hc => exact h.started hs hc
  | popped k _ _ _ _ => exact h.popped k
  | surfaced _ _ _ ha => exact h.surfaced ha
  | ended r _ _ hr => exact h.ended hr
  | answered r hr => exact h.record hr
  | suspended n hk hc hn _ => exact h.suspended hk hc hn
  | closed hk _ => exact h.closed hk

/-! ## The reset keeps the invariant -/

/-- R230, R232: a session that is opened with the parameters in range begins in the invariant. -/
theorem regInv_blockReset (cfg : Params) (src : List Byte) (s : State) (hcfg : cfg.Wf)
    (hsched : ∀ cfg src, Turn.reset cfg src ∈ s.turns → cfg.Wf) : RegInv (blockReset cfg src s) where
  cap := hcfg
  scheduleCap := hsched
  chanBound := Nat.zero_le _
  outbufBound := Nat.zero_le _
  payloadBound := Nat.zero_le _
  srcBound := .inl (Nat.zero_le _)
  payloadPhase := nofun
  decodePhase := nofun
  deliverPhase := nofun
  errIff := by simp [blockReset, State.reset]
  abnormalIff := by simp [blockReset, State.reset]
  eofIff := by simp [blockReset, State.reset]
  failSeenAbnormal := nofun
  closedCaller := nofun
  cancelClosed := nofun
  beforeStart := fun _ => rfl
  waiting := nofun
  endSeen := nofun
  errorSeen := nofun

/-! ## Steps without the block's reset -/

/-- Such a step is a move of the worker or of the caller in a state that differs only in the model's own
fields. -/
theorem step_effect_of_not_reset (hn : ∀ cfg src ts, s.turns ≠ .reset cfg src :: ts) (h : step s = .next t) :
    ∃ u, u = { s with
        turns := u.turns, draw := u.draw, freeCount := u.freeCount, freeMover := u.freeMover,
        freeLeft := u.freeLeft, cmds := u.cmds } ∧
      (WorkerEffect u t ∨ CallerEffect u t) := by
  rcases step_effect h with ⟨cfg, src, ts, hturns, -⟩ | ⟨d, ts, n, m, l, cs, -, he⟩
  · exact absurd hturns (hn cfg src ts)
  · exact ⟨_, rfl, he⟩

/-- Outside `Running` the worker has no step (R161). -/
theorem WorkerEffect.eq_of_not_running (he : WorkerEffect s t) (hs : s.state ≠ .running) : t = s := by
  cases he with
  | waits => rfl
  | cancelled h _ => exact absurd h hs
  | header _ _ _ h _ => exact absurd h.1 hs
  | endOfSource h => exact absurd h.1 hs
  | payloadRead _ h _ _ => exact absurd h.1 hs
  | decoded _ h _ _ _ _ => exact absurd h.1 hs
  | pushed _ h _ _ => exact absurd h.1 hs
  | delivered h _ => exact absurd h.1 hs
  | failed _ _ h _ _ _ _ => exact absurd h hs

/-! ## Terminal states (R21, R208) -/

/-- No command of the caller leaves a terminal state. -/
theorem CallerEffect.keeps_terminal (he : CallerEffect s t) (hs : s.state.terminal = true) :
    t.state = s.state ∧ t.err = s.err ∧ t.closeCause = s.closeCause := by
  obtain ⟨hno, hidle, -⟩ := ne_of_terminal hs
  cases he with
  | opened _ _ _ _ _ h _ => exact absurd h hno
  | openFailed _ _ h _ _ _ => exact absurd h hno
  | started h _ => exact absurd h hidle
  | closed _ _ => rw [closeStream_terminal (by exact hs)]; exact ⟨rfl, rfl, rfl⟩
  | _ => exact ⟨rfl, rfl, rfl⟩

/-! ## The parameters, the source and the file header (R24, R65, R232) -/

/-- `t` has the parameters and the source of `s`. -/
def SameInput (s t : State) : Prop := t.cfg = s.cfg ∧ t.src = s.src

/-- `t` has the file header's registers of `s`. -/
def SameHeader (s t : State) : Prop :=
  t.fhFreq = s.fhFreq ∧ t.fhDataSize = s.fhDataSize ∧ t.fhOutSize = s.fhOutSize ∧
    t.fhFlags = s.fhFlags ∧ t.fhCtype = s.fhCtype

theorem deliverEnd_input_header (s : State) : SameInput s (deliverEnd s) ∧ SameHeader s (deliverEnd s) := by
  rw [deliverEnd]
  split_ifs <;> exact ⟨⟨rfl, rfl⟩, rfl, rfl, rfl, rfl, rfl⟩

theorem closeStream_input_header (s : State) : SameInput s (closeStream s) ∧ SameHeader s (closeStream s) := by
  rw [closeStream]
  split <;> exact ⟨⟨rfl, rfl⟩, rfl, rfl, rfl, rfl, rfl⟩

/-- The worker writes neither the input nor the file header. -/
theorem WorkerEffect.input_header (he : WorkerEffect s t) : SameInput s t ∧ SameHeader s t := by
  cases he with
  | decoded t _ ht _ _ _ => rw [ht]; exact ⟨⟨rfl, rfl⟩, rfl, rfl, rfl, rfl, rfl⟩
  | pushed _ _ _ _ => exact deliverEnd_input_header _
  | delivered _ _ => exact deliverEnd_input_header _
  | failed _ m _ _ hm _ _ => rw [hm]; exact ⟨⟨rfl, rfl⟩, rfl, rfl, rfl, rfl, rfl⟩
  | _ => exact ⟨⟨rfl, rfl⟩, rfl, rfl, rfl, rfl, rfl⟩

/-- The caller writes no input, and the file header only by `OPEN` in `NoStream`. -/
theorem CallerEffect.input_header (he : CallerEffect s t) :
    SameInput s t ∧ (s.state ≠ .noStream → SameHeader s t) := by
  cases he with
  | opened _ _ _ _ _ h _ => exact ⟨⟨rfl, rfl⟩, fun hn => absurd h hn⟩
  | openFailed _ m h hm _ _ => rw [hm]; exact ⟨⟨rfl, rfl⟩, fun hn => absurd h hn⟩
  | closed _ _ => exact ⟨(closeStream_input_header _).1, fun _ => (closeStream_input_header _).2⟩
  | _ => exact ⟨⟨rfl, rfl⟩, fun _ => ⟨rfl, rfl, rfl, rfl, rfl⟩⟩

/-! ## The decoder state (R29, R30) -/

/-- `t` has the decoder state of `s`, of both variants. -/
def SameDecoder (s t : State) : Prop :=
  t.imaIndex = s.imaIndex ∧ t.imaPred = s.imaPred ∧ t.ws8Pred = s.ws8Pred

theorem deliverEnd_decoder (s : State) : SameDecoder s (deliverEnd s) := by
  rw [deliverEnd]
  split_ifs <;> exact ⟨rfl, rfl, rfl⟩

/-- A move of the worker that stays in `Running` keeps the decoder state, or is the decode of a chunk, which
writes that of the selected variant. -/
theorem WorkerEffect.decoder (he : WorkerEffect s t) (ht : t.state = .running) :
    SameDecoder s t ∨
    s.phase = .decode ∧ (s.fhCtype ≠ 99 → t.imaIndex = s.imaIndex ∧ t.imaPred = s.imaPred) ∧
      (s.fhCtype ≠ 1 → t.ws8Pred = s.ws8Pred) := by
  cases he with
  | cancelled _ _ => cases ht
  | endOfSource _ => cases ht
  | failed _ _ _ _ _ _ _ => cases ht
  | decoded t h _ _ hi hw => exact .inr ⟨h.2.2, hi, hw⟩
  | pushed _ _ _ _ => exact .inl (deliverEnd_decoder _)
  | delivered _ _ => exact .inl (deliverEnd_decoder _)
  | _ => exact .inl ⟨rfl, rfl, rfl⟩

/-- While the stream runs the caller writes no decoder state. -/
theorem CallerEffect.decoder (he : CallerEffect s t) (hs : s.state = .running) : SameDecoder s t := by
  cases he with
  | opened _ _ _ _ _ h _ => rw [hs] at h; cases h
  | openFailed _ _ h _ _ _ => rw [hs] at h; cases h
  | started h _ => rw [hs] at h; cases h
  | closed _ _ => rw [closeStream_running (by exact hs)]; exact ⟨rfl, rfl, rfl⟩
  | _ => exact ⟨rfl, rfl, rfl⟩

/-! ## `SRC_OFF` (R23, R201) -/

@[simp] theorem deliverEnd_srcOff (s : State) : (deliverEnd s).srcOff = s.srcOff := by
  rw [deliverEnd]
  split_ifs <;> rfl

@[simp] theorem closeStream_srcOff (s : State) : (closeStream s).srcOff = s.srcOff := by
  rw [closeStream]
  split <;> rfl

/-- The worker consumes bytes, or a fault at its read leaves `SRC_OFF` without a value. -/
theorem WorkerEffect.srcOff_le (he : WorkerEffect s t) : s.srcOff ≤ t.srcOff ∨ srcOffLost t := by
  cases he with
  | header _ _ _ _ _ => exact .inl (Nat.le_add_right ..)
  | payloadRead _ _ _ _ => exact .inl (Nat.le_add_right ..)
  | decoded t _ ht _ _ _ => rw [ht]; exact .inl le_rfl
  | pushed _ _ _ _ => exact .inl (by simp)
  | delivered _ _ => exact .inl (by simp)
  | failed e m _ _ hm _ ho =>
    have hph : m.phase = s.phase := by rw [hm]
    exact ho.imp And.left fun ⟨he, hp⟩ => ⟨he, .inr ⟨rfl, by rwa [fail_phase, hph]⟩⟩
  | _ => exact .inl le_rfl

/-- The caller consumes bytes at `OPEN`, or a fault at its read leaves `SRC_OFF` without a value. -/
theorem CallerEffect.srcOff_le (he : CallerEffect s t) : s.srcOff ≤ t.srcOff ∨ srcOffLost t := by
  cases he with
  | opened _ _ _ _ _ _ _ => exact .inl (Nat.le_add_right ..)
  | openFailed _ _ _ _ _ ho => exact ho.imp And.left fun he => ⟨he, .inl rfl⟩
  | closed _ _ => exact .inl (by simp)
  | _ => exact .inl le_rfl

end Sys2Proof.Machine

namespace Sys2Proof.Proofs

open Sys2Proof Sys2Proof.Machine

/-- Settles O8: the reset begins in the invariant, and each effect of a move of the worker or of the caller
keeps it. -/
theorem stepKeepsTheInvariant : Obligations.StepKeepsTheInvariant := by
  unfold Obligations.StepKeepsTheInvariant
  intro s t h hstep
  rcases step_effect hstep with ⟨cfg, src, ts, hturns, rfl⟩ | ⟨d, ts, n, m, l, cs, hts, he | he⟩
  · have hmem : ∀ u ∈ Turn.reset cfg src :: ts, u ∈ s.turns := by simp [hturns]
    exact regInv_blockReset cfg src _ (h.scheduleCap cfg src (hmem _ List.mem_cons_self))
      fun cfg src hm => h.scheduleCap cfg src (hmem _ (List.mem_cons_of_mem _ hm))
  · exact he.keeps_regInv (h.of_schedule hts d n m l cs)
  · exact he.keeps_regInv (h.of_schedule hts d n m l cs)

/-- Settles O7: `State.reset` is the block's reset with the parameters that the reset itself holds. -/
theorem resetMeetsTheInvariant : Obligations.ResetMeetsTheInvariant :=
  regInv_blockReset defaultParams [] State.reset (Nat.le_add_left 1 _) nofun

/-- Settles O6: the values of `State.reset`, where no failure has left `SRC_OFF` without a value. -/
theorem resetRegisters : Obligations.ResetRegisters := by
  unfold Obligations.ResetRegisters
  refine ⟨rfl, rfl, rfl, rfl, rfl, rfl, rfl, rfl, rfl, rfl, rfl, rfl, fun r => ⟨statusValue r State.reset, ?_⟩⟩
  exact statusRead_next (.inr fun hl : srcOffLost State.reset => nomatch hl.1)

/-- Settles O51: the worker has no step, and no command of the caller leaves a terminal state. -/
theorem terminalStatesAreLeftOnlyByReset : Obligations.TerminalStatesAreLeftOnlyByReset := by
  unfold Obligations.TerminalStatesAreLeftOnlyByReset
  intro s t hs hn hstep
  have hterminal : s.state.terminal = true := by rcases hs with hs | hs | hs <;> rw [hs] <;> rfl
  obtain ⟨u, hu, he | he⟩ := step_effect_of_not_reset hn hstep <;> rw [hu] at he
  · rw [he.eq_of_not_running (ne_of_terminal hterminal).2.2]
    exact ⟨rfl, rfl, rfl⟩
  · exact he.keeps_terminal hterminal

/-- Settles O52: neither agent writes the input, and only `OPEN` writes the file header. -/
theorem headerRegistersAreImmutable : Obligations.HeaderRegistersAreImmutable := by
  unfold Obligations.HeaderRegistersAreImmutable
  intro s t hn hstep
  obtain ⟨u, hu, he | he⟩ := step_effect_of_not_reset hn hstep <;> rw [hu] at he
  · obtain ⟨⟨hcfg, hsrc⟩, hheader⟩ := he.input_header
    exact ⟨hcfg, hsrc, fun _ => hheader⟩
  · obtain ⟨⟨hcfg, hsrc⟩, hheader⟩ := he.input_header
    exact ⟨hcfg, hsrc, hheader⟩

/-- Settles O53: of the moves that stay in `Running` only the decode of a chunk writes decoder state, and that
of the selected variant. -/
theorem onlyTheSelectedDecoderStateIsWritten : Obligations.OnlyTheSelectedDecoderStateIsWritten := by
  unfold Obligations.OnlyTheSelectedDecoderStateIsWritten
  intro s t hstep hs ht
  have key : SameDecoder s t ∨
      s.phase = .decode ∧ (s.fhCtype ≠ 99 → t.imaIndex = s.imaIndex ∧ t.imaPred = s.imaPred) ∧
        (s.fhCtype ≠ 1 → t.ws8Pred = s.ws8Pred) := by
    rcases step_effect hstep with ⟨cfg, src, ts, -, rfl⟩ | ⟨d, ts, n, m, l, cs, -, he | he⟩
    · cases ht
    · exact he.decoder ht
    · exact .inl (he.decoder hs)
  rcases key with ⟨hindex, hpred, hws8⟩ | ⟨hphase, hima, hws8⟩
  · exact ⟨fun _ => ⟨hindex, hpred⟩, fun _ => hws8, fun _ => ⟨hindex, hpred, hws8⟩⟩
  · exact ⟨hima, hws8, fun hn => absurd hphase hn⟩

/-- Settles O54: each agent consumes bytes, or a fault at a read leaves `SRC_OFF` without a value. -/
theorem sourceOffsetNeverDecreases : Obligations.SourceOffsetNeverDecreases := by
  unfold Obligations.SourceOffsetNeverDecreases
  intro s t hn hstep
  obtain ⟨u, hu, he | he⟩ := step_effect_of_not_reset hn hstep <;> rw [hu] at he
  · exact he.srcOff_le
  · exact he.srcOff_le

end Sys2Proof.Proofs
end

section
/-! SUPPORT. Proofs of the statements about the payload's bytes, the source read and the channel
(20_memory.md R51, R55, R56, R59, R64; 30_encoding.md R75, R76). -/

namespace Sys2Proof.Machine

variable {s t : State}

/-! ## An I/O fault at the worker's source read (R51, R201, R203) -/

/-- R163: the chunk-header read with a fault drawn fails the stream, whatever it was to return. -/
theorem chunkHeaderRead_fault (hd : s.draw.ioFault = true) (k : Nat) :
    chunkHeaderRead k s = .ended (fail .ioFailure (loseSrcOff (beginChunk s))) := by
  rw [chunkHeaderRead, srcRead_fault (by exact hd)]

/-- R203: with a fault drawn every record of the chunk-header step takes the same failure entry. -/
theorem exec_chunkHeader_fault (hw : workerAt .chdr s) (hd : s.draw.ioFault = true) {e d : BitVec 16}
    {m : BitVec 32} {c : List Byte} {i : Instr} (hi : i ∈ [Instr.chdr e d m, .chdrShort c, .eos]) :
    exec i s = .next (fail .ioFailure (loseSrcOff (beginChunk s))) := by
  simp only [List.mem_cons, List.not_mem_nil, or_false] at hi
  rcases hi with rfl | rfl | rfl
  · rw [exec, execChdr_at hw, chdrFlow, chunkHeaderRead_fault hd, Flow.bind_ended, Flow.state_ended]
  · rw [exec, execChdrShort_at hw, chunkHeaderRead_fault hd, Flow.bind_ended, Flow.state_ended]
  · rw [exec, execEos_at hw, chunkHeaderRead_fault hd, Flow.bind_ended, Flow.state_ended]

/-- R164: the payload read with a fault drawn fails the stream, before its length is looked at. -/
theorem exec_payload_fault (hw : workerAt .payload s) (hd : s.draw.ioFault = true) {p : List Byte}
    (hp : p.length ≤ s.chEnc.toNat) : exec (.payload p) s = .next (fail .ioFailure (loseSrcOff s)) := by
  rw [exec, execPayload_at hw hp, srcRead_fault hd, Flow.bind_ended, Flow.state_ended]

/-- R201, I11: outside `DELIVER` an `IOFailure` came from a source read, so a read of `SRC_OFF` stops. -/
theorem statusRead_srcOff_of_ioFailure (hph : s.phase ≠ .deliver) :
    statusRead .srcOff (fail .ioFailure s) = .fault (.holdsNoValue .srcOff) :=
  statusRead_fault ⟨rfl, .inr ⟨rfl, hph⟩⟩

/-! ## What the caller has received (R64, R180) -/

theorem received_congr (h : t.results = s.results) : received t = received s := by
  rw [received, received, h]

/-- An answer adds the bytes it gave. -/
theorem received_append {r : HostResult} (h : t.results = s.results ++ [r]) :
    received t = received s ++ r.got := by
  simp [received, h]

/-- Only the bytes of a `READ` give the caller any. -/
theorem HostResult.got_of_not_ofRead {r : HostResult} (h : r.ofRead = false) : r.got = [] := by
  cases r with
  | bytes _ => cases h
  | _ => rfl

/-! ## `CHAN` and the answers -/

/-- `t` has the channel and the caller's answers of `s`. -/
def SameChannel (s t : State) : Prop := t.chan = s.chan ∧ t.results = s.results

/-- `t` has the caller's byte stream of `s`: what it has received, followed by what is buffered. -/
def SameStream (s t : State) : Prop := received t ++ t.chan = received s ++ s.chan

theorem SameChannel.sameStream (h : SameChannel s t) : SameStream s t := by
  rw [SameStream, received_congr h.2, h.1]

/-- R56, R175: the bytes popped from the head are the bytes returned. -/
theorem chanPop_sameStream (k : Nat) (s : State) : SameStream s (chanPop k s) := by
  have hr : received (chanPop k s) = received s ++ s.chan.take k :=
    received_append (r := .bytes (s.chan.take k)) rfl
  have hc : (chanPop k s).chan = s.chan.drop k := rfl
  rw [SameStream, hr, hc, List.append_assoc, List.take_append_drop]

/-- An answer without bytes leaves the stream as it was. -/
theorem sameStream_of_answer {r : HostResult} (hg : r.got = []) (hc : t.chan = s.chan)
    (hr : t.results = s.results ++ [r]) : SameStream s t := by
  rw [SameStream, received_append hr, hg, hc, List.append_nil]

/-! ## The worker and `CHAN` (R55, R168) -/

/-- The end of `DELIVER` touches neither the channel nor `DLV_PTR`. -/
theorem deliverEnd_channel (s : State) :
    SameChannel s (deliverEnd s) ∧ (deliverEnd s).dlvPtr = s.dlvPtr := by
  rw [deliverEnd]
  split_ifs <;> exact ⟨⟨rfl, rfl⟩, rfl⟩

/-- `DLV_PTR` does not wrap while it points into `OUTBUF` (R20, R34). -/
theorem RegInv.dlvPtr_succ (h : RegInv s) (hlt : s.dlvPtr.toNat < s.outbuf.length) :
    (s.dlvPtr + 1).toNat = s.dlvPtr.toNat + 1 := by
  have := h.outbufBound
  rw [BitVec.toNat_add]; simp; omega

/-- `t` is `s` after the push of `b`, the byte of `OUTBUF` at `DLV_PTR` (R168). -/
structure PushedFrom (s t : State) (b : Byte) : Prop where
  running : s.state = .running
  phase : s.phase = .deliver
  byte : s.outbuf[s.dlvPtr.toNat]? = some b
  ptr : t.dlvPtr = s.dlvPtr + 1
  chan : t.chan = s.chan ++ [b]
  results : t.results = s.results

/-- A move of the worker keeps the channel, or it is the push of the next byte. -/
theorem WorkerEffect.channel (he : WorkerEffect s t) : SameChannel s t ∨ ∃ b, PushedFrom s t b := by
  cases he with
  | pushed b h hb _ =>
    obtain ⟨⟨hchan, hresults⟩, hptr⟩ :=
      deliverEnd_channel { s with chan := s.chan ++ [b], dlvPtr := s.dlvPtr + 1 }
    exact .inr ⟨b, h.1, h.2.2, hb, hptr, hchan, hresults⟩
  | delivered _ _ => exact .inl (deliverEnd_channel s).1
  | decoded t _ ht _ _ _ => rw [ht]; exact .inl ⟨rfl, rfl⟩
  | failed _ m _ _ hm _ _ => rw [hm]; exact .inl ⟨rfl, rfl⟩
  | _ => exact .inl ⟨rfl, rfl⟩

/-! ## The caller and `CHAN` (R56, R175, R177) -/

@[simp] theorem closeStream_callerClosed (s : State) : (closeStream s).callerClosed = s.callerClosed := by
  rw [closeStream]
  split <;> rfl

/-- A command of the caller that drops nothing keeps the stream: it neither closes nor lets a failure surface,
and before `OPEN` there is nothing to drop. -/
theorem CallerEffect.sameStream (he : CallerEffect s t) (hempty : s.state = .noStream → s.chan = [])
    (hclosed : t.callerClosed = s.callerClosed) (hseen : t.failSeen = s.failSeen) : SameStream s t := by
  cases he with
  | opened _ _ _ _ _ h _ => exact SameChannel.sameStream ⟨(hempty h).symm, rfl⟩
  | openFailed _ m _ hm _ _ => rw [hm]; exact SameChannel.sameStream ⟨rfl, rfl⟩
  | popped k _ _ _ _ => exact chanPop_sameStream k s
  | surfaced _ _ hf _ => exact absurd (hseen.trans hf) Bool.noConfusion
  | ended r _ _ hr =>
    have hg : r.got = [] := by rcases hr with ⟨rfl, -⟩ | ⟨rfl, -⟩ <;> rfl
    exact sameStream_of_answer hg rfl rfl
  | answered r hr => exact sameStream_of_answer (HostResult.got_of_not_ofRead hr) rfl rfl
  | closed _ hc => simp [hc] at hclosed
  | _ => exact SameChannel.sameStream ⟨rfl, rfl⟩

end Sys2Proof.Machine

namespace Sys2Proof.Proofs

open Sys2Proof Sys2Proof.Machine

/-- Settles O55: the worker keeps the channel or pushes the byte at `DLV_PTR`, and the caller takes from the
head what it receives. -/
theorem channelIsAFifo : Obligations.ChannelIsAFifo := by
  unfold Obligations.ChannelIsAFifo
  intro s t h hn hstep hclosed hseen
  obtain ⟨u, hu, he | he⟩ := step_effect_of_not_reset hn hstep <;> rw [hu] at he
  · rcases he.channel with hsame | ⟨b, hpush⟩
    · exact .inl hsame.sameStream
    · have hlt := (List.getElem?_eq_some_iff.1 hpush.byte).1
      have hptr : t.dlvPtr.toNat = s.dlvPtr.toNat + 1 := by rw [hpush.ptr]; exact h.dlvPtr_succ hlt
      exact .inr ⟨b, hpush.running, hpush.phase, hpush.byte, hptr, hpush.chan, received_congr hpush.results⟩
  · exact .inl (he.sameStream (fun hs => h.beforeStart (.inl hs)) hclosed hseen)

/-- Settles O5: an IMA4 byte is its two nibbles, and a WS8 byte is classified by its bit 7. -/
theorem payloadByteFields : Obligations.PayloadByteFields := by
  unfold Obligations.PayloadByteFields
  intro b
  refine ⟨⟨lowNibble b, highNibble b, rfl, lowNibble_toNat b, highNibble_toNat b⟩, ?_⟩
  have hdec : decode .ws8Command [b] = .op (decodeWs8 b) [] := rfl
  rw [hdec]
  split_ifs with h
  · obtain ⟨count, hrun, hcount⟩ := decodeWs8_run b h
    exact ⟨count, by rw [hrun], hcount⟩
  · obtain ⟨code1, code2, hdelta, hcodes⟩ := decodeWs8_delta b h
    exact ⟨code1, code2, by rw [hdelta], hcodes⟩

/-- Settles O36: both reads take the failure entry at once, and their phase is not `DELIVER`. -/
theorem sourceFaultFailsTheStream : Obligations.SourceFaultFailsTheStream := by
  unfold Obligations.SourceFaultFailsTheStream
  intro s hd
  constructor
  · intro hw e d m c i hi
    have hph : (loseSrcOff (beginChunk s)).phase ≠ .deliver := by simp [hw.2.2]
    exact ⟨_, exec_chunkHeader_fault hw hd hi, fail_failedWith_of_eq _ _ _ rfl,
      statusRead_srcOff_of_ioFailure hph⟩
  · intro hw p hp
    have hph : (loseSrcOff s).phase ≠ .deliver := by simp [hw.2.2]
    exact ⟨_, exec_payload_fault hw hd hp, fail_failedWith_of_eq _ _ _ rfl, statusRead_srcOff_of_ioFailure hph⟩

end Sys2Proof.Proofs
end

section
/-! SUPPORT. Proofs of the statements about the encodings: the decoder and the encoder undo each other in
every input unit (30_encoding.md R70 to R79). -/

namespace Sys2Proof

/-! ## Decoding an encoding -/

theorem decode_fhdr_bytes (freq : BitVec 16) (dataSize outputSize : BitVec 32) (flags ctype : BitVec 8)
    (rest : List Byte) :
    decode .fileHeader (bytes16 freq ++ bytes32 dataSize ++ bytes32 outputSize ++ [flags, ctype] ++ rest)
      = .op (.fhdr freq dataSize outputSize flags ctype) rest := by
  simp only [bytes16, bytes32, List.cons_append, List.nil_append, decode, decodeFileHeader, le16_of_bytes,
    le32_of_bytes]

theorem decode_chdr_bytes (enc dec : BitVec 16) (magic : BitVec 32) (rest : List Byte) :
    decode .chunkHeader (bytes16 enc ++ bytes16 dec ++ bytes32 magic ++ rest) = .op (.chdr enc dec magic) rest := by
  simp only [bytes16, bytes32, List.cons_append, List.nil_append, decode, decodeChunkHeader, le16_of_bytes,
    le32_of_bytes]

/-- A payload read of the length of `p` takes `p` and no byte more (R72). -/
theorem decode_payload_append (p rest : List Byte) :
    decode (.payload p.length) (p ++ rest) = .op (.payload p) rest := by
  simp only [decode, List.take_left, List.drop_left]

theorem decodeCodec_unsupported {t : Byte} (h : (Instr.selUnsupported t).wellFormed = true) :
    decodeCodec t = .selUnsupported t := by
  simp only [Instr.wellFormed, Bool.and_eq_true, bne_iff_ne] at h
  rw [decodeCodec, if_neg h.1, if_neg h.2]

theorem decode_nib_byte (code : BitVec 4) (rest : List Byte) :
    decode .ima4Nib ((0#4 ++ code : BitVec 8) :: rest) = .op (.ima4Nib code) rest := by
  simp only [decode, decodeOne, highNibble_append, lowNibble_append, if_true]

/-- The decoder undoes the encoder; an operation that the end of the source makes has nothing after it (R79). -/
theorem decode_encode {i : Instr} {u : InputUnit} {bs rest : List Byte} (hw : i.wellFormed = true)
    (he : encode i = some (u, bs)) (hr : i.endsSource = true → rest = []) :
    decode u (bs ++ rest) = .op i rest := by
  cases i with
  | fhdr freq dataSize outputSize flags ctype =>
    cases he
    exact decode_fhdr_bytes freq dataSize outputSize flags ctype rest
  | fhdrShort _ =>
    cases he
    obtain rfl := hr rfl
    rw [List.append_nil]
    exact decodeFileHeader_short bs (of_decide_eq_true hw)
  | chdr enc dec magic =>
    cases he
    exact decode_chdr_bytes enc dec magic rest
  | chdrShort _ =>
    cases he
    obtain rfl := hr rfl
    simp only [Instr.wellFormed, Bool.and_eq_true, decide_eq_true_eq] at hw
    rw [List.append_nil]
    exact decodeChunkHeader_short bs hw.1 hw.2
  | eos =>
    cases he
    obtain rfl := hr rfl
    rfl
  | payload _ =>
    cases he
    exact decode_payload_append bs rest
  | selWs8 => cases he; rfl
  | selIma4 => cases he; rfl
  | selUnsupported t =>
    cases he
    exact congrArg (Decoded.op · rest) (decodeCodec_unsupported hw)
  | ima4Byte lo hi =>
    cases he
    simp only [List.cons_append, List.nil_append, decode, decodeOne, decodeIma4, lowNibble_append,
      highNibble_append]
  | ima4Nib code =>
    cases he
    exact decode_nib_byte code rest
  | ws8Byte b => cases he; rfl
  | ws8Run count =>
    cases he
    exact congrArg (Decoded.op · rest) (decodeWs8_of_run count)
  | ws8Delta code1 code2 =>
    cases he
    exact congrArg (Decoded.op · rest) (decodeWs8_of_delta code1 code2)
  | _ => cases he

/-! ## Encoding what was decoded -/

/-- The operation `i` and the rest account for the bytes `bs` exactly: `i` is well-formed, and its encoding in
the unit `u`, followed by `rest`, is `bs`. -/
def Accounts (u : InputUnit) (bs : List Byte) (i : Instr) (rest : List Byte) : Prop :=
  i.wellFormed = true ∧ ∃ w, encode i = some (u, w) ∧ w ++ rest = bs

/-- Twelve bytes or more are a whole header, fewer a short read (R70, R79 (b)). -/
theorem decodeFileHeader_accounts {bs rest : List Byte} {i : Instr} (h : decodeFileHeader bs = .op i rest) :
    Accounts .fileHeader bs i rest := by
  rcases Nat.lt_or_ge bs.length 12 with hlt | hge
  · rw [decodeFileHeader_short bs hlt] at h
    cases h
    exact ⟨decide_eq_true hlt, bs, rfl, bs.append_nil⟩
  · obtain ⟨h0, h1, h2, h3, h4, h5, h6, h7, h8, h9, h10, h11, tail, rfl⟩ := twelve_bytes bs hge
    cases h
    refine ⟨rfl, _, rfl, ?_⟩
    rw [bytes16_le16, bytes32_le32, bytes32_le32]
    rfl

/-- Eight bytes or more are a whole header, none the end of the stream, and 1 to 7 a short read (R71, R79 (c),
R162). -/
theorem decodeChunkHeader_accounts {bs rest : List Byte} {i : Instr} (h : decodeChunkHeader bs = .op i rest) :
    Accounts .chunkHeader bs i rest := by
  rcases Nat.lt_or_ge bs.length 8 with hlt | hge
  · rcases Nat.eq_zero_or_pos bs.length with hzero | hpos
    · obtain rfl := List.length_eq_zero_iff.1 hzero
      cases h
      exact ⟨rfl, [], rfl, rfl⟩
    · rw [decodeChunkHeader_short bs hpos hlt] at h
      cases h
      exact ⟨Bool.and_eq_true_iff.2 ⟨decide_eq_true hpos, decide_eq_true hlt⟩, bs, rfl, bs.append_nil⟩
  · obtain ⟨c0, c1, c2, c3, c4, c5, c6, c7, tail, rfl⟩ := eight_bytes bs hge
    cases h
    refine ⟨rfl, _, rfl, ?_⟩
    rw [bytes16_le16, bytes16_le16, bytes32_le32]
    rfl

/-- A unit of one byte consumes its first byte and no other. -/
theorem decodeOne_eq_op {f : Byte → Decoded} {bs rest : List Byte} {i : Instr} (h : decodeOne f bs = .op i rest) :
    ∃ b tail, bs = b :: rest ∧ f b = .op i tail := by
  cases bs with
  | nil => cases h
  | cons b bs =>
    rw [decodeOne] at h
    split at h
    next j tail hj => cases h; exact ⟨b, tail, rfl, hj⟩
    next => cases h

/-- What a unit of one byte reads accounts for its bytes, where every operation that a byte gives is well-formed
and encoded as that byte. -/
theorem decodeOne_accounts {f : Byte → Decoded} {u : InputUnit} {bs rest : List Byte} {i : Instr}
    (hf : ∀ b tail, f b = .op i tail → i.wellFormed = true ∧ encode i = some (u, [b]))
    (h : decodeOne f bs = .op i rest) : Accounts u bs i rest := by
  obtain ⟨b, tail, rfl, hb⟩ := decodeOne_eq_op h
  obtain ⟨hw, he⟩ := hf b tail hb
  exact ⟨hw, [b], he, rfl⟩

/-- The same where every byte gives an operation. -/
theorem decodeOne_op_accounts {g : Byte → Instr} {u : InputUnit} {bs rest : List Byte} {i : Instr}
    (hg : ∀ b, (g b).wellFormed = true ∧ encode (g b) = some (u, [b]))
    (h : decodeOne (fun b => .op (g b) []) bs = .op i rest) : Accounts u bs i rest :=
  decodeOne_accounts (fun b _ hb => by cases hb; exact hg b) h

theorem encode_decodeCodec (t : Byte) :
    (decodeCodec t).wellFormed = true ∧ encode (decodeCodec t) = some (.codecSelect, [t]) := by
  unfold decodeCodec
  split_ifs with h1 h99
  · subst h1; exact ⟨rfl, rfl⟩
  · subst h99; exact ⟨rfl, rfl⟩
  · exact ⟨Bool.and_eq_true_iff.2 ⟨bne_iff_ne.2 h1, bne_iff_ne.2 h99⟩, rfl⟩

theorem encode_decodeIma4 (b : Byte) : encode (decodeIma4 b) = some (.ima4Byte, [b]) := by
  rw [decodeIma4, encode, nibbles_append]

/-- An IMA4 code in the low four bits of a byte is the whole byte, for the others are zero (R75). -/
theorem encode_nib_lowNibble {b : Byte} (h : highNibble b = 0#4) :
    encode (.ima4Nib (lowNibble b)) = some (.ima4Nib, [b]) := by
  rw [encode, ← h, nibbles_append]

theorem encode_decodeWs8 (b : Byte) :
    (decodeWs8 b).wellFormed = true ∧ encode (decodeWs8 b) = some (.ws8Command, [b]) := by
  by_cases h : 128 ≤ b.toNat
  · obtain ⟨count, hrun, hcount⟩ := decodeWs8_run b h
    have hbyte : (1#1 ++ count : BitVec 8) = b := by
      apply BitVec.eq_of_toNat_eq
      rw [append_toNat, hcount, BitVec.toNat_ofNat]; omega
    rw [hrun, encode, hbyte]
    exact ⟨rfl, rfl⟩
  · obtain ⟨code1, code2, hdelta, hcode1, hcode2⟩ := decodeWs8_delta b h
    have hbyte : (0#1 ++ code1 ++ code2 : BitVec 8) = b := by
      apply BitVec.eq_of_toNat_eq
      rw [append_toNat, append_toNat, hcode1, hcode2, BitVec.toNat_ofNat]; omega
    rw [hdelta, encode, hbyte]
    exact ⟨rfl, rfl⟩

/-- In every unit but the payload the answer accounts for the bytes in that unit. -/
theorem decode_accounts {u : InputUnit} {bs rest : List Byte} {i : Instr} (hu : ∀ n, u ≠ .payload n)
    (h : decode u bs = .op i rest) : Accounts u bs i rest := by
  cases u with
  | fileHeader => exact decodeFileHeader_accounts h
  | chunkHeader => exact decodeChunkHeader_accounts h
  | payload n => exact absurd rfl (hu n)
  | codecSelect => exact decodeOne_op_accounts encode_decodeCodec h
  | ima4Byte => exact decodeOne_op_accounts (fun b => ⟨rfl, encode_decodeIma4 b⟩) h
  | ima4Nib =>
    refine decodeOne_accounts (fun b _ hb => ?_) h
    split_ifs at hb with hzero
    cases hb
    exact ⟨rfl, encode_nib_lowNibble hzero⟩
  | ws8Byte => exact decodeOne_op_accounts (fun _ => ⟨rfl, rfl⟩) h
  | ws8Command => exact decodeOne_op_accounts encode_decodeWs8 h

/-- A payload read accounts for its bytes in the unit of the length that came (R164). -/
theorem decode_payload_accounts {n : Nat} {bs rest : List Byte} {i : Instr} (hn : n ≤ 65535)
    (h : decode (.payload n) bs = .op i rest) : Accounts (.payload (min n bs.length)) bs i rest := by
  cases h
  have hlen : (bs.take n).length = min n bs.length := List.length_take
  exact ⟨decide_eq_true (by omega), bs.take n, by rw [encode, hlen], List.take_append_drop n bs⟩

end Sys2Proof

namespace Sys2Proof.Proofs

/-- Settles O2, by the operation: each field is read back from the bytes it was written to. -/
theorem decodeOfEncodeIsTheOperation : Obligations.DecodeOfEncodeIsTheOperation := by
  unfold Obligations.DecodeOfEncodeIsTheOperation
  intro i u bs rest hw he hr
  exact decode_encode hw he hr

/-- Settles O3: the payload is read in the unit of the length that came, every other operation in its own. -/
theorem encodeOfDecodeIsTheBytes : Obligations.EncodeOfDecodeIsTheBytes := by
  unfold Obligations.EncodeOfDecodeIsTheBytes
  intro u bs i rest hn h
  by_cases hu : ∃ n, u = .payload n
  · obtain ⟨n, rfl⟩ := hu
    obtain ⟨hw, w, he, hbs⟩ := decode_payload_accounts (hn n rfl) h
    exact ⟨hw, _, w, he, hbs, .inr ⟨n, rfl, rfl⟩⟩
  · obtain ⟨hw, w, he, hbs⟩ := decode_accounts (not_exists.1 hu) h
    exact ⟨hw, u, w, he, hbs, .inl rfl⟩

/-- Settles O1: the decoder runs on the six words. -/
theorem sampleWordsDecode : Obligations.SampleWordsDecode := by
  unfold Obligations.SampleWordsDecode
  decide

end Sys2Proof.Proofs
end

section
/-! SUPPORT. Proofs of the statements about the header operations (41_header.md R100 to R105; 60_exceptions.md
R201, R203, R206, R207). -/

namespace Sys2Proof.Machine

variable {s : State}

/-! ## The file header (R100) -/

theorem execFhdr_at (h : s.state = .noStream) (freq : BitVec 16) (dataSize outSize : BitVec 32)
    (flags ctype : BitVec 8) :
    execFhdr freq dataSize outSize flags ctype s = .next (fhdrFlow freq dataSize outSize flags ctype s).state := by
  rw [execFhdr, if_pos h, Flow.out_eq]

theorem execFhdrShort_at (h : s.state = .noStream) (bs : List Byte) :
    execFhdrShort bs s = .next (fhdrShortFlow bs s).state := by
  rw [execFhdrShort, if_pos h, Flow.out_eq]

theorem fhdrFlow_ok (hd : s.draw.ioFault = false) (freq : BitVec 16) (dataSize outSize : BitVec 32)
    (flags ctype : BitVec 8) :
    fhdrFlow freq dataSize outSize flags ctype s
      = .go { s with
          fhFreq := freq, fhDataSize := dataSize, fhOutSize := outSize, fhFlags := flags, fhCtype := ctype,
          srcOff := s.srcOff + 12 } := by
  rw [fhdrFlow, srcRead_ok hd, Flow.bind_go]

theorem fhdrFlow_fault (hd : s.draw.ioFault = true) (freq : BitVec 16) (dataSize outSize : BitVec 32)
    (flags ctype : BitVec 8) :
    fhdrFlow freq dataSize outSize flags ctype s = .ended (openFail .ioFailure (loseSrcOff s)) := by
  rw [fhdrFlow, srcRead_fault hd, Flow.bind_ended]

theorem fhdrShortFlow_ok (hd : s.draw.ioFault = false) (bs : List Byte) :
    fhdrShortFlow bs s = .ended (openFail .malformedHeader { s with srcOff := s.srcOff + bs.length }) := by
  rw [fhdrShortFlow, srcRead_ok hd, Flow.bind_go]

theorem fhdrShortFlow_fault (hd : s.draw.ioFault = true) (bs : List Byte) :
    fhdrShortFlow bs s = .ended (openFail .ioFailure (loseSrcOff s)) := by
  rw [fhdrShortFlow, srcRead_fault hd, Flow.bind_ended]

/-! ## The header read of `OPEN` (R160, R203) -/

theorem execOpen_at (h : s.state = .noStream) :
    execOpen s = .next ((openHeader s).bind fun t => .go (openStream t)).state := by
  rw [execOpen, if_pos h, Flow.out_eq]

/-- R203: a drawn fault fails the open whatever bytes the source holds. -/
theorem openHeader_fault (hd : s.draw.ioFault = true) :
    openHeader s = .ended (openFail .ioFailure (loseSrcOff s)) := by
  rw [openHeader]
  split
  · exact fhdrFlow_fault hd ..
  · exact fhdrShortFlow_fault hd _

/-- R100: with fewer than 12 bytes left `OPEN` reads them all, as a short header. -/
theorem openHeader_short (hl : (s.src.drop s.srcOff).length < 12) :
    openHeader s = fhdrShortFlow (s.src.drop s.srcOff) s := by
  have hpeek : srcPeek 12 s = s.src.drop s.srcOff := List.take_of_length_le hl.le
  rw [openHeader, hpeek, decodeFileHeader_short _ hl]

/-- A header read that fails the open ends `OPEN`: nothing is initialised (R160, R207). -/
theorem exec_openCmd_of_ended {t : State} (h : s.state = .noStream) (ht : openHeader s = .ended t) :
    exec .openCmd s = .next t := by
  rw [exec, execOpen_at h, ht, Flow.bind_ended, Flow.state_ended]

/-- R201, I11: after a fault at the header read, a read of `SRC_OFF` stops. -/
theorem statusRead_srcOff_of_openFault :
    statusRead .srcOff (openFail .ioFailure s) = .fault (.holdsNoValue .srcOff) :=
  statusRead_fault ⟨rfl, .inl rfl⟩

/-! ## The chunk header (R102, R163) -/

/-- R163: the chunk-header read with no fault drawn consumes the bytes it returns. -/
theorem chunkHeaderRead_ok (hd : s.draw.ioFault = false) (k : Nat) :
    chunkHeaderRead k s = .go { beginChunk s with srcOff := s.srcOff + k } := by
  rw [chunkHeaderRead, srcRead_ok (by exact hd), beginChunk_srcOff]

/-- The state in which `CHDR` checks the magic: 8 bytes are consumed and the chunk registers written (R102). -/
def chunkHeaderWritten (enc dec : BitVec 16) (magic : BitVec 32) (s : State) : State :=
  { beginChunk s with srcOff := s.srcOff + 8, chEnc := enc, chDec := dec, chMagic := magic }

theorem chdrFlow_eq (hd : s.draw.ioFault = false) (enc dec : BitVec 16) (magic : BitVec 32) :
    chdrFlow enc dec magic s
      = if s.cfg.magicCheck = true ∧ magic ≠ s.cfg.chunkMagic then
          .ended (fail .badMagic (chunkHeaderWritten enc dec magic s))
        else .go { chunkHeaderWritten enc dec magic s with phase := .payload } := by
  rw [chdrFlow, chunkHeaderRead_ok hd]
  rfl

/-! ## The bits of `FH_FLAGS` (R73) -/

theorem bitrateOf_eq (flags : BitVec 8) : bitrateOf flags = if flags.toNat / 2 % 2 = 1 then 16 else 8 := by
  simp only [bitrateOf, getLsbD_eq_div, decide_eq_true_eq, Nat.pow_one]

theorem channelsOf_eq (flags : BitVec 8) : channelsOf flags = if flags.toNat % 2 = 1 then 2 else 1 := by
  simp only [channelsOf, getLsbD_eq_div, decide_eq_true_eq, Nat.pow_zero, Nat.div_one]

end Sys2Proof.Machine

namespace Sys2Proof.Proofs

open Sys2Proof Sys2Proof.Machine

/-- Settles O19: a drawn fault ends the header read for any bytes; with none drawn the bytes left are a short
header. -/
theorem openFailsEagerly : Obligations.OpenFailsEagerly := by
  unfold Obligations.OpenFailsEagerly
  intro s hs
  constructor
  · intro hd
    exact ⟨_, exec_openCmd_of_ended hs (openHeader_fault hd), ⟨rfl, rfl, rfl⟩, statusRead_srcOff_of_openFault⟩
  · intro hd hl
    have hread := (openHeader_short hl).trans (fhdrShortFlow_ok hd _)
    exact ⟨_, exec_openCmd_of_ended hs hread, openFail_openFailedWith _ _⟩

/-- Settles O16: the read of 12 bytes goes on to the five registers. -/
theorem fileHeaderIsRecorded : Obligations.FileHeaderIsRecorded := by
  unfold Obligations.FileHeaderIsRecorded
  intro s freq dataSize outSize flags ctype hs hd
  rw [exec, execFhdr_at hs, fhdrFlow_ok hd, Flow.state_go]

/-- Settles O17: the read of the bytes that came goes on to the open failure entry. -/
theorem shortFileHeaderFailsTheOpen : Obligations.ShortFileHeaderFailsTheOpen := by
  unfold Obligations.ShortFileHeaderFailsTheOpen
  intro s h hs hd
  refine ⟨_, ?_, openFail_openFailedWith _ _⟩
  rw [exec, execFhdrShort_at hs, fhdrShortFlow_ok hd, Flow.state_ended]

/-- Settles O20: the magic check does not fire. -/
theorem chunkHeaderIsRecorded : Obligations.ChunkHeaderIsRecorded := by
  unfold Obligations.ChunkHeaderIsRecorded
  intro s enc dec magic hw hd hpass
  have hcheck : ¬ (s.cfg.magicCheck = true ∧ magic ≠ s.cfg.chunkMagic) := by
    rintro ⟨hon, hne⟩
    rcases hpass with hoff | heq
    · exact Bool.noConfusion (hoff.symm.trans hon)
    · exact hne heq
  rw [exec, execChdr_at hw, chdrFlow_eq hd, if_neg hcheck]
  rfl

/-- Settles O21: the magic check fires after the registers were written. -/
theorem badMagicFailsTheStream : Obligations.BadMagicFailsTheStream := by
  unfold Obligations.BadMagicFailsTheStream
  intro s enc dec magic hw hd hon hne
  refine ⟨fail .badMagic (chunkHeaderWritten enc dec magic s), ?_, fail_failedWith_of_eq _ _ _ rfl⟩
  rw [exec, execChdr_at hw, chdrFlow_eq hd, if_pos ⟨hon, hne⟩, Flow.state_ended]

/-- Settles O22: the read of the bytes that came goes on to the failure entry. -/
theorem shortChunkHeaderFailsTheStream : Obligations.ShortChunkHeaderFailsTheStream := by
  unfold Obligations.ShortChunkHeaderFailsTheStream
  intro s c hw hd _ _
  refine ⟨fail .malformedHeader { beginChunk s with srcOff := s.srcOff + c.length }, ?_,
    fail_failedWith_of_eq _ _ _ rfl⟩
  rw [exec, execChdrShort_at hw, chunkHeaderRead_ok hd, Flow.bind_go, Flow.state_ended]

/-- Settles O23: each answer is a function of one bit of the flags. -/
theorem statusFunctionsOfTheFlags : Obligations.StatusFunctionsOfTheFlags := by
  unfold Obligations.StatusFunctionsOfTheFlags
  intro s
  constructor
  · rw [exec, execBitrate, bitrateOf_eq]; rfl
  · rw [exec, execChannels, channelsOf_eq]; rfl

end Sys2Proof.Proofs
end

section
/-! SUPPORT. Proofs of the statements about IMA4 (42_ima4.md R122 to R125; 44_sequencer.md R165). -/

namespace Sys2Proof.Reference

/-- R122: the four quotients are largest with every bit of the code set, and sum to 61436 for the step 32767. -/
theorem diff_le {step : Nat} (h : step ≤ 32767) (code : Nat) : diff step code ≤ 61436 := by
  have hmax : diff step code ≤ step / 8 + step + step / 2 + step / 4 := by
    unfold diff
    gcongr <;> split_ifs <;> omega
  omega

end Sys2Proof.Reference

namespace Sys2Proof.Machine

variable {s : State}

/-! ## The operations, where an IMA4 chunk is decoded (R123 to R125, R165) -/

theorem execIma4Nib_at (h : codecAt 99 s) (code : BitVec 4) : execIma4Nib code s = .next (ima4Nib code s) := by
  rw [execIma4Nib, if_pos h]

theorem execIma4Byte_at (h : codecAt 99 s) (lo hi : BitVec 4) :
    execIma4Byte lo hi s = .next (ima4Nib hi (ima4Nib lo s)) := by
  rw [execIma4Byte, if_pos h, ima4Byte]

theorem execIma4Chunk_at (h : codecAt 99 s) : execIma4Chunk s = .next (ima4Chunk s).state := by
  rw [execIma4Chunk, if_pos h, Flow.out_eq]

theorem execSelIma4_at (h : codecAt 99 s) : execSelIma4 s = .next (selectIma4 s).state := by
  rw [execSelIma4, if_pos h, Flow.out_eq]

/-- R165: the dispatch takes the arm of `compressionType` 99. -/
theorem execDispatch_ima4 (h : codecAt 99 s) : execDispatch s = .next (selectIma4 s).state := by
  obtain ⟨hworker, hctype⟩ := h
  rw [execDispatch_at hworker, if_pos hctype]

/-- A code leaves the decode of its chunk in place: it writes only the decoder state and the output (R123). -/
theorem ima4Nib_codecAt (h : codecAt 99 s) (code : BitVec 4) : codecAt 99 (ima4Nib code s) := h

/-! ## The size check (R125) -/

theorem ima4Chunk_mismatch (hsize : s.chDec.toNat ≠ 4 * s.chEnc.toNat) :
    ima4Chunk s = .ended (fail .sizeMismatch s) := by
  rw [ima4Chunk, if_pos hsize]

theorem selectIma4_mismatch (hsize : s.chDec.toNat ≠ 4 * s.chEnc.toNat) :
    selectIma4 s = .ended (fail .sizeMismatch s) := by
  rw [selectIma4, ima4Chunk_mismatch hsize, Flow.bind_ended]

/-- With the payload read, a chunk whose sizes agree decodes all of it. -/
theorem ima4Chunk_ok (hpayload : s.payload.length = s.chEnc.toNat) (hsize : s.chDec.toNat = 4 * s.chEnc.toNat) :
    ima4Chunk s = .go (ima4Bytes s.payload s) := by
  rw [ima4Chunk, if_neg (not_not_intro hsize), ← hpayload, List.take_length]

theorem selectIma4_ok (hpayload : s.payload.length = s.chEnc.toNat) (hsize : s.chDec.toNat = 4 * s.chEnc.toNat) :
    selectIma4 s = .go { ima4Bytes s.payload s with dlvPtr := 0, phase := .deliver } := by
  rw [selectIma4, ima4Chunk_ok hpayload hsize, Flow.bind_go, beginDelivery]

end Sys2Proof.Machine

namespace Sys2Proof.Proofs

open Sys2Proof Sys2Proof.Machine

/-- Settles O28: the three operations run the loop over the payload, which is the integer decoder's. -/
theorem imaChunkRefinesTheIntegerDecoder : Obligations.ImaChunkRefinesTheIntegerDecoder := by
  unfold Obligations.ImaChunkRefinesTheIntegerDecoder
  rintro s r hat hempty hpayload hsize rfl
  obtain ⟨hstate, hbytes, hlength, hframe⟩ := ima4Bytes_spec s.payload s
  refine ⟨ima4Bytes s.payload s, ?_, ?_, ?_, hstate, hframe, ?_, ?_⟩
  · rw [exec, execIma4Chunk_at hat, ima4Chunk_ok hpayload hsize, Flow.state_go]
  · rw [hbytes, hempty]; rfl
  · rw [hlength, hempty, hpayload, hsize, List.length_nil, Nat.zero_add]
  · rw [exec, execDispatch_ima4 hat, selectIma4_ok hpayload hsize, Flow.state_go]
  · rw [exec, execSelIma4_at hat, selectIma4_ok hpayload hsize, Flow.state_go]

/-- Settles O26: the operation's next state is the code's, whose effect on the integers is known. -/
theorem imaCodeStep : Obligations.ImaCodeStep := by
  unfold Obligations.ImaCodeStep
  intro s code hat
  obtain ⟨hstate, hbytes, -, hframe⟩ := ima4Nib_spec code s
  exact ⟨ima4Nib code s, execIma4Nib_at hat code, hstate, hbytes, hframe⟩

/-- Settles O25: the shifts are divisions, and the sum of the quotients is bounded by that of the largest step. -/
theorem imaDiffIsTheTruncatedSum : Obligations.ImaDiffIsTheTruncatedSum := by
  unfold Obligations.ImaDiffIsTheTruncatedSum
  intro step code hstep
  rw [imaDiff_eq]
  exact ⟨rfl, Reference.diff_le hstep _⟩

/-- Settles O27: the low code leaves a state in which the high code completes. -/
theorem imaByteIsTwoCodes : Obligations.ImaByteIsTwoCodes := by
  unfold Obligations.ImaByteIsTwoCodes
  intro s lo hi hat
  exact ⟨ima4Nib lo s, ima4Nib hi (ima4Nib lo s), execIma4Nib_at hat lo,
    execIma4Nib_at (ima4Nib_codecAt hat lo) hi, execIma4Byte_at hat lo hi⟩

/-- Settles O29: the size check comes first in the decode, so each of the three operations ends in its entry. -/
theorem imaSizeMismatchFailsTheStream : Obligations.ImaSizeMismatchFailsTheStream := by
  unfold Obligations.ImaSizeMismatchFailsTheStream
  intro s i hat hsize hi
  refine ⟨fail .sizeMismatch s, ?_, fail_failedWith _ _⟩
  simp only [List.mem_cons, List.not_mem_nil, or_false] at hi
  obtain rfl | rfl | rfl := hi
  · rw [exec, execIma4Chunk_at hat, ima4Chunk_mismatch hsize, Flow.state_ended]
  · rw [exec, execSelIma4_at hat, selectIma4_mismatch hsize, Flow.state_ended]
  · rw [exec, execDispatch_ima4 hat, selectIma4_mismatch hsize, Flow.state_ended]

end Sys2Proof.Proofs
end

section
/-! SUPPORT. Proofs of the statements about WS8 (43_ws8.md R141 to R145; 44_sequencer.md R165). -/

namespace Sys2Proof.Machine

open Reference

variable {s : State}

/-! ## The operations, where a WS8 chunk is decoded (R141 to R145, R165) -/

theorem execWs8Emit_at (h : codecAt 1 s) (v : Byte) : execWs8Emit v s = .next (ws8Emit v s).state := by
  rw [execWs8Emit, if_pos h, Flow.out_eq]

theorem execWs8Run_at (h : codecAt 1 s) (count : BitVec 7) :
    execWs8Run count s = .next (ws8Repeat count.toNat s).state := by
  rw [execWs8Run, if_pos h, Flow.out_eq, ws8Run]

theorem execWs8Delta_at (h : codecAt 1 s) (code1 : BitVec 3) (code2 : BitVec 4) :
    execWs8Delta code1 code2 s = .next (ws8Delta code1 code2 s).state := by
  rw [execWs8Delta, if_pos h, Flow.out_eq]

theorem execWs8Byte_at (h : codecAt 1 s) (b : Byte) : execWs8Byte b s = .next (ws8Byte b s).state := by
  rw [execWs8Byte, if_pos h, Flow.out_eq]

theorem execWs8Chunk_at (h : codecAt 1 s) : execWs8Chunk s = .next (ws8Chunk s).state := by
  rw [execWs8Chunk, if_pos h, Flow.out_eq]

theorem execSelWs8_at (h : codecAt 1 s) : execSelWs8 s = .next (selectWs8 s).state := by
  rw [execSelWs8, if_pos h, Flow.out_eq]

/-- R165: the dispatch takes the arm of `compressionType` 1. -/
theorem execDispatch_ws8 (h : codecAt 1 s) : execDispatch s = .next (selectWs8 s).state := by
  obtain ⟨hworker, hctype⟩ := h
  rw [execDispatch_at hworker, if_neg (by simp [hctype]), if_pos hctype]

/-- R141: a byte's class as the decoder reads it is the class whose operation `WS8.BYTE` runs. -/
theorem exec_decodeWs8 (b : Byte) (s : State) : exec (decodeWs8 b) s = execWs8Byte b s := by
  by_cases hrun : b.getLsbD 7 = true
  · rw [decodeWs8, if_pos hrun, execWs8Byte, ws8Byte, if_pos hrun, exec, execWs8Run]
  · rw [decodeWs8, if_neg hrun, execWs8Byte, ws8Byte, if_neg hrun, exec, execWs8Delta]

/-! ## A run that fits (R142) -/

theorem ws8Repeat_room {n : Nat} (h : s.outbuf.length + n ≤ s.chDec.toNat) :
    ws8Repeat n s = .go { s with outbuf := s.outbuf ++ List.replicate n s.ws8Pred } := by
  induction n generalizing s with
  | zero => rw [ws8Repeat, List.replicate_zero, List.append_nil]
  | succ n ih =>
    rw [ws8Repeat, ws8Emit_room (by omega), Flow.bind_go, ih (by simp; omega)]
    simp [List.replicate_succ]

/-! ## The payload and the size check (R145) -/

/-- With the payload read and no output yet, commands that give at most `CH_DEC` bytes all run. -/
theorem ws8Bytes_payload_ok (hempty : s.outbuf = [])
    (hsize : (ws8Decode s.cfg s.ws8Pred.toNat s.payload).1.length ≤ s.chDec.toNat) :
    ∃ t, ws8Bytes s.payload s = .go t ∧
      values t.outbuf = (ws8Decode s.cfg s.ws8Pred.toNat s.payload).1 ∧
      (t.ws8Pred.toNat : Int) = (ws8Decode s.cfg s.ws8Pred.toNat s.payload).2 ∧
      t = { s with ws8Pred := t.ws8Pred, outbuf := t.outbuf } := by
  have hends := ws8Bytes_ends s.payload s (by simp [hempty])
  obtain ⟨t, hgo, hbytes, hpred, hframe⟩ := hends.1 (by simpa [hempty] using hsize)
  exact ⟨t, hgo, by rw [hbytes, hempty]; rfl, hpred, hframe⟩

theorem ws8Chunk_eq (hpayload : s.payload.length = s.chEnc.toNat) :
    ws8Chunk s = (ws8Bytes s.payload s).bind fun t =>
      if t.outbuf.length ≠ t.chDec.toNat then .ended (fail .sizeMismatch t) else .go t := by
  rw [ws8Chunk, ← hpayload, List.take_length]

/-- Commands that give exactly `CH_DEC` bytes pass the check. -/
theorem ws8Chunk_ok (hempty : s.outbuf = []) (hpayload : s.payload.length = s.chEnc.toNat)
    (hsize : (ws8Decode s.cfg s.ws8Pred.toNat s.payload).1.length = s.chDec.toNat) :
    ∃ t, ws8Chunk s = .go t ∧
      values t.outbuf = (ws8Decode s.cfg s.ws8Pred.toNat s.payload).1 ∧
      (t.ws8Pred.toNat : Int) = (ws8Decode s.cfg s.ws8Pred.toNat s.payload).2 ∧
      t = { s with ws8Pred := t.ws8Pred, outbuf := t.outbuf } := by
  obtain ⟨t, hgo, hbytes, hpred, hframe⟩ := ws8Bytes_payload_ok hempty hsize.le
  have hlen : t.outbuf.length = t.chDec.toNat := by rw [← values_length, hbytes, hsize, hframe]
  refine ⟨t, ?_, hbytes, hpred, hframe⟩
  rw [ws8Chunk_eq hpayload, hgo, Flow.bind_go, if_neg (not_not_intro hlen)]

/-- Commands that give more than `CH_DEC` bytes fail at the first byte too many, and ones that give fewer fail at
the check. -/
theorem ws8Chunk_mismatch (hempty : s.outbuf = []) (hpayload : s.payload.length = s.chEnc.toNat)
    (hsize : (ws8Decode s.cfg s.ws8Pred.toNat s.payload).1.length ≠ s.chDec.toNat) :
    ∃ t, ws8Chunk s = .ended t ∧ FailedWith .sizeMismatch s t := by
  rcases hsize.lt_or_gt with hless | hmore
  · obtain ⟨t, hgo, hbytes, -, hframe⟩ := ws8Bytes_payload_ok hempty hless.le
    have hlen : t.outbuf.length ≠ t.chDec.toNat := by rwa [← values_length, hbytes, hframe]
    refine ⟨fail .sizeMismatch t, ?_, .of_ws8 hframe (fail_failedWith _ _)⟩
    rw [ws8Chunk_eq hpayload, hgo, Flow.bind_go, if_pos hlen]
  · have hends := ws8Bytes_ends s.payload s (by simp [hempty])
    obtain ⟨t, hended, hfailed⟩ := hends.2 (by simpa [hempty] using hmore)
    exact ⟨t, by rw [ws8Chunk_eq hpayload, hended, Flow.bind_ended], hfailed⟩

end Sys2Proof.Machine

namespace Sys2Proof.Proofs

open Sys2Proof Sys2Proof.Machine

/-- Settles O31: every emit of a run that fits has room, and one that does not fit fails in one of them. -/
theorem ws8RunRepeatsThePredictor : Obligations.Ws8RunRepeatsThePredictor := by
  unfold Obligations.Ws8RunRepeatsThePredictor
  intro s count hat hle
  rw [exec, execWs8Run_at hat]
  constructor
  · intro hfit
    rw [ws8Repeat_room hfit, Flow.state_go]
  · intro hover
    obtain ⟨t, hended, hfailed⟩ := (ws8Repeat_ends count.toNat s hle).2 (by simpa using hover)
    exact ⟨t, by rw [hended, Flow.state_ended], hfailed⟩

/-- Settles O32: the two codes in turn, by whether their two bytes fit. -/
theorem ws8DeltaAddsTwoCodes : Obligations.Ws8DeltaAddsTwoCodes := by
  unfold Obligations.Ws8DeltaAddsTwoCodes
  rintro s code1 code2 p1 p2 hat hle rfl rfl
  have hends := ws8Delta_ends code1 code2 s hle
  rw [exec, execWs8Delta_at hat]
  constructor
  · intro hfit
    obtain ⟨t, hgo, hbytes, hpred, hframe⟩ := hends.1 hfit
    exact ⟨t, by rw [hgo, Flow.state_go], hpred, hbytes, hframe⟩
  · intro hover
    obtain ⟨t, hended, hfailed⟩ := hends.2 hover
    exact ⟨t, by rw [hended, Flow.state_ended], hfailed⟩

/-- Settles O33: the byte's class is the decoder's, and its bytes are the integer decoder's of that one byte. -/
theorem ws8ByteRunsItsClass : Obligations.Ws8ByteRunsItsClass := by
  unfold Obligations.Ws8ByteRunsItsClass
  rintro s b r hat rfl
  refine ⟨(exec_decodeWs8 b s).symm, fun hfit => ?_⟩
  obtain ⟨t, hgo, hbytes, hpred, hframe⟩ := (ws8Byte_ends b s (by omega)).1 hfit
  exact ⟨t, by rw [exec, execWs8Byte_at hat, hgo, Flow.state_go], hpred, hbytes, hframe⟩

/-- Settles O34: the three operations run the commands of the payload, whose bytes pass the size check. -/
theorem ws8ChunkRefinesTheIntegerDecoder : Obligations.Ws8ChunkRefinesTheIntegerDecoder := by
  unfold Obligations.Ws8ChunkRefinesTheIntegerDecoder
  rintro s r hat hempty hpayload rfl hsize
  obtain ⟨t, hgo, hbytes, hpred, hframe⟩ := ws8Chunk_ok hempty hpayload hsize
  have hselect : selectWs8 s = .go { t with dlvPtr := 0, phase := .deliver } := by
    rw [selectWs8, hgo, Flow.bind_go, beginDelivery]
  refine ⟨t, ?_, hbytes, hpred, hframe, ?_, ?_⟩
  · rw [exec, execWs8Chunk_at hat, hgo, Flow.state_go]
  · rw [exec, execDispatch_ws8 hat, hselect, Flow.state_go]
  · rw [exec, execSelWs8_at hat, hselect, Flow.state_go]

/-- Settles O35: the decode ends in the failure entry, so each of the three operations does. -/
theorem ws8SizeMismatchFailsTheStream : Obligations.Ws8SizeMismatchFailsTheStream := by
  unfold Obligations.Ws8SizeMismatchFailsTheStream
  intro s i hat hempty hpayload hsize hi
  obtain ⟨t, hended, hfailed⟩ := ws8Chunk_mismatch hempty hpayload hsize
  have hselect : selectWs8 s = .ended t := by rw [selectWs8, hended, Flow.bind_ended]
  refine ⟨t, ?_, hfailed⟩
  simp only [List.mem_cons, List.not_mem_nil, or_false] at hi
  obtain rfl | rfl | rfl := hi
  · rw [exec, execWs8Chunk_at hat, hended, Flow.state_ended]
  · rw [exec, execSelWs8_at hat, hselect, Flow.state_ended]
  · rw [exec, execDispatch_ws8 hat, hselect, Flow.state_ended]

/-- Settles O30, by whether `OUTBUF` already holds `CH_DEC` bytes. -/
theorem ws8EmitIsChecked : Obligations.Ws8EmitIsChecked := by
  unfold Obligations.Ws8EmitIsChecked
  intro s v hat
  rw [exec, execWs8Emit_at hat]
  constructor
  · intro hroom
    rw [ws8Emit_room hroom, Flow.state_go]
  · intro hfull
    exact ⟨_, by rw [ws8Emit_full hfull, Flow.state_ended], fail_failedWith _ _⟩

end Sys2Proof.Proofs
end

section
/-! SUPPORT. Proofs of the statements about the host commands and the status reads (44_sequencer.md R160, R170,
R175 to R177, R183, R184). -/

namespace Sys2Proof.Machine

variable {s t : State}

/-! ## `OPEN` with the header in the source (R100, R160) -/

/-- With 12 bytes left and no fault, `OPEN` records the header they hold and initialises the stream. -/
theorem exec_openCmd_ok {h0 h1 h2 h3 h4 h5 h6 h7 h8 h9 h10 h11 : Byte} {rest : List Byte}
    (hs : s.state = .noStream) (hd : s.draw.ioFault = false)
    (hsrc : s.src.drop s.srcOff = h0 :: h1 :: h2 :: h3 :: h4 :: h5 :: h6 :: h7 :: h8 :: h9 :: h10 :: h11 :: rest) :
    exec .openCmd s = .next (openStream { s with
      fhFreq := le16 h0 h1, fhDataSize := le32 h2 h3 h4 h5, fhOutSize := le32 h6 h7 h8 h9, fhFlags := h10,
      fhCtype := h11, srcOff := s.srcOff + 12 }) := by
  have hpeek : srcPeek 12 s = [h0, h1, h2, h3, h4, h5, h6, h7, h8, h9, h10, h11] := by rw [srcPeek, hsrc]; rfl
  have hread : openHeader s = fhdrFlow (le16 h0 h1) (le32 h2 h3 h4 h5) (le32 h6 h7 h8 h9) h10 h11 s := by
    rw [openHeader, hpeek]; rfl
  rw [exec, execOpen_at hs, hread, fhdrFlow_ok hd, Flow.bind_go, Flow.state_go]

/-! ## `READ` (R175, R176) -/

/-- `READ(n)` where it is admitted. -/
theorem exec_readCmd {n : Nat} (hno : s.state ≠ .noStream) (hof : s.state ≠ .openFail)
    (hc : s.callerClosed = false) (hn : 1 ≤ n) : exec (.readCmd n) s = .next (readAdmitted n s) :=
  execRead_at ⟨hno, hof⟩ hc hn

/-- R176. -/
theorem readAdmitted_failSeen (n : Nat) (hf : s.failSeen = true) : readAdmitted n s = answer (.error s.err) s := by
  rw [readAdmitted, if_pos hf]

/-- R175 (a), (b). -/
theorem readAdmitted_abnormal (n : Nat) (hf : s.failSeen = false) (ha : s.sinkEnd = .abnormal) :
    readAdmitted n s =
      if s.chan ≠ [] ∧ s.draw.readError = false then chanPop (readCount n s) s
      else answer (.error s.err) { s with failSeen := true, chan := [] } := by
  rw [readAdmitted, if_neg (by simp [hf]), if_pos ha]

/-- R175: bytes are buffered. -/
theorem readAdmitted_bytes (n : Nat) (hf : s.failSeen = false) (ha : s.sinkEnd ≠ .abnormal) (hb : s.chan ≠ []) :
    readAdmitted n s = chanPop (readCount n s) s := by
  rw [readAdmitted, if_neg (by simp [hf]), if_neg ha, if_pos hb]

/-- R175: the channel is empty and no failure has closed it. -/
theorem readAdmitted_empty (n : Nat) (hf : s.failSeen = false) (ha : s.sinkEnd ≠ .abnormal) (hb : s.chan = []) :
    readAdmitted n s = if s.sinkEnd = .eof then answer .endOfStream s else { s with callerWait := some n } := by
  rw [readAdmitted, if_neg (by simp [hf]), if_neg ha, if_neg (not_not_intro hb)]

/-- Every count of the range is the one of some draw (R175; log 9). -/
theorem readCount_of_draw {n k : Nat} (h1 : 1 ≤ k) (hk : k ≤ min n s.chan.length) (e f g : Bool) :
    readCount n { s with draw := ⟨e, k - 1, f, g⟩ } = k := by
  rw [readCount, Nat.mod_eq_of_lt (by simp only; omega)]
  simp only
  omega

/-- An `ERROR` is what a `READ` answers only with the failure surfaced (R175, R176). -/
theorem readAdmitted_error {n : Nat} {e : ErrorCode}
    (h : (readAdmitted n s).results = s.results ++ [.error e]) : (readAdmitted n s).failSeen = true := by
  rw [readAdmitted] at h ⊢
  split_ifs at h ⊢ with hf
  · exact hf
  · simp [chanPop] at h
  · rfl
  · simp [chanPop] at h
  · simp at h
  · simp at h

/-! ## `CLOSE` (R177) -/

/-- The first `CLOSE` of a stream that exists. -/
theorem exec_closeCmd (hk : headerKnown s) (hc : s.callerClosed = false) :
    exec .closeCmd s = .next (closeStream { s with callerClosed := true, chan := [], callerWait := none }) := by
  rw [exec, execClose, if_pos ⟨hk, hc⟩]

/-- `CLOSE` without a stream, or a second one, has no effect. -/
theorem exec_closeCmd_without_effect (h : ¬ (headerKnown s ∧ s.callerClosed = false)) :
    exec .closeCmd s = .next s := by
  rw [exec, execClose, if_neg h]

/-- `CLOSE` completes, and once more in the state it leaves changes nothing. -/
theorem exec_closeCmd_idempotent (s : State) : ∃ t, exec .closeCmd s = .next t ∧ exec .closeCmd t = .next t := by
  by_cases h : headerKnown s ∧ s.callerClosed = false
  · exact ⟨_, exec_closeCmd h.1 h.2, exec_closeCmd_without_effect (by simp)⟩
  · exact ⟨s, exec_closeCmd_without_effect h, exec_closeCmd_without_effect h⟩

/-! ## Status reads (R37, R183) -/

/-- A register that holds a value answers it. -/
theorem answers_statusValue {r : StatusReg} (h : r ≠ .srcOff ∨ ¬ srcOffLost s) : answers r (statusValue r s) s :=
  statusRead_next h

/-- R21: the codes of `STATE` number its values in the table's order. -/
theorem StreamState.idxOf_eq_code (x : StreamState) :
    [StreamState.noStream, .idle, .running, .closed, .failed, .openFail].idxOf x = x.code.toNat := by
  cases x <;> rfl

/-- R200: the codes of `ERR` number its values in the table's order. -/
theorem ErrorCode.idxOf_eq_code (x : ErrorCode) :
    [ErrorCode.none, .malformedHeader, .unsupportedCodec, .truncatedChunk, .ioFailure, .sizeMismatch,
      .badMagic].idxOf x = x.code.toNat := by
  cases x <;> rfl

theorem CloseCause.ite_eq_code (x : CloseCause) : (if x = .normal then 0 else 1) = x.code.toNat := by
  cases x <;> rfl

end Sys2Proof.Machine

namespace Sys2Proof.Proofs

open Sys2Proof Sys2Proof.Machine

/-- Settles O18: the header's fields are the little-endian numbers of their bytes, and `openStream` does the
rest. -/
theorem openReadsTheHeader : Obligations.OpenReadsTheHeader := by
  unfold Obligations.OpenReadsTheHeader
  intro s h0 h1 h2 h3 h4 h5 h6 h7 h8 h9 h10 h11 rest hs hd hsrc
  exact ⟨_, exec_openCmd_ok hs hd hsrc, rfl, rfl, le16_toNat h0 h1, le32_toNat h2 h3 h4 h5, le32_toNat h6 h7 h8 h9,
    rfl, rfl, rfl, rfl, rfl, rfl, rfl, rfl, rfl, rfl, rfl, rfl, rfl⟩

/-- Settles O46: the count of the draw is in the range, and each count of the range is that of a draw. -/
theorem readReturnsBufferedBytes : Obligations.ReadReturnsBufferedBytes := by
  unfold Obligations.ReadReturnsBufferedBytes
  intro s n hno hof hc hn hf ha hb
  constructor
  · obtain ⟨hpos, hmin⟩ := readCount_range (n := n) hn hb
    refine ⟨readCount n s, hpos, hmin, ?_⟩
    rw [exec_readCmd hno hof hc hn, readAdmitted_bytes n hf ha hb]
    rfl
  · intro k hpos hmin
    have hread : exec (.readCmd n) { s with draw := ⟨false, k - 1, false, false⟩ }
        = .next (chanPop k { s with draw := ⟨false, k - 1, false, false⟩ }) := by
      rw [exec_readCmd (by exact hno) (by exact hof) (by exact hc) hn,
        readAdmitted_bytes n (by exact hf) (by exact ha) (by exact hb), readCount_of_draw hpos hmin]
    exact ⟨_, _, hread, rfl, rfl⟩

/-- Settles O48, by the choice of R175: the error where the draw asks for it or no byte is buffered. -/
theorem readAfterAnAbnormalClose : Obligations.ReadAfterAnAbnormalClose := by
  unfold Obligations.ReadAfterAnAbnormalClose
  intro s n hno hof hc hn hf ha
  refine ⟨_, exec_readCmd hno hof hc hn, ?_⟩
  rw [readAdmitted_abnormal n hf ha]
  by_cases h : s.chan ≠ [] ∧ s.draw.readError = false
  · obtain ⟨hpos, hmin⟩ := readCount_range (n := n) hn h.1
    have hbytes : ¬ (s.chan = [] ∨ s.draw.readError = true) := by simp [h]
    rw [if_pos h, if_neg hbytes]
    exact ⟨rfl, ⟨hf, readCount n s, hpos, hmin, rfl, rfl⟩, rfl⟩
  · have herror : s.chan = [] ∨ s.draw.readError = true := by
      by_contra hn'
      exact h (by simpa using hn')
    rw [if_neg h, if_pos herror]
    exact ⟨rfl, ⟨rfl, rfl, rfl⟩, rfl⟩

/-- Settles O24: every register but `SRC_OFF` answers its value, and `SRC_OFF` where it holds one. -/
theorem statusReadsAnswerTheRegister : Obligations.StatusReadsAnswerTheRegister := by
  unfold Obligations.StatusReadsAnswerTheRegister
  intro s
  rw [StreamState.idxOf_eq_code, ErrorCode.idxOf_eq_code, CloseCause.ite_eq_code]
  have hvalue (r : StatusReg) (hr : r ≠ .srcOff) : answers r (statusValue r s) s := answers_statusValue (.inl hr)
  refine ⟨hvalue .state nofun, hvalue .err nofun, hvalue .closeCause nofun, hvalue .fhFreq nofun,
    hvalue .fhDataSize nofun, hvalue .fhOutSize nofun, hvalue .fhFlags nofun, hvalue .fhCtype nofun,
    hvalue .chunkCount nofun, ?_⟩
  split_ifs with hlost
  · exact statusRead_fault hlost
  · exact answers_statusValue (.inr hlost)

/-- Settles O44: each meaning is guarded by its precondition, and completes under it. -/
theorem commandsRefusedExactly : Obligations.CommandsRefusedExactly := by
  unfold Obligations.CommandsRefusedExactly
  intro s n
  refine ⟨?_, ?_, ?_, fun r hr => ?_⟩
  · rw [exec, execOpen]
    split_ifs with h <;> simp [h]
  · rw [exec, execStart]
    split_ifs with h
    · simp [h]
    · simpa [imp_iff_not_or] using h
  · rw [exec, execRead]
    split_ifs with h
    · obtain ⟨⟨hno, hof⟩, hc, hn⟩ := h
      simp [hno, hof, hc]; omega
    · simp only [true_iff]
      by_contra hadmitted
      simp only [not_or] at hadmitted
      obtain ⟨hno, hof, hc, hn⟩ := hadmitted
      exact h ⟨⟨hno, hof⟩, by simpa using hc, Nat.one_le_iff_ne_zero.2 hn⟩
  · obtain ⟨t, ht, -⟩ := exec_closeCmd_idempotent s
    rw [ht] at hr
    cases hr

/-- Settles O45: `START`'s precondition holds. -/
theorem startRunsTheWorker : Obligations.StartRunsTheWorker := by
  unfold Obligations.StartRunsTheWorker
  intro s hs hc
  rw [exec, execStart, if_pos ⟨hs, hc⟩]

/-- Settles O47, by how the sink stands. -/
theorem readOfAnEmptyChannel : Obligations.ReadOfAnEmptyChannel := by
  unfold Obligations.ReadOfAnEmptyChannel
  intro s n hno hof hc hn hf hb
  rw [exec_readCmd hno hof hc hn]
  constructor
  · intro heof
    rw [readAdmitted_empty n hf (by simp [heof]) hb, if_pos heof]
    rfl
  · intro hopen
    rw [readAdmitted_empty n hf (by simp [hopen]) hb, if_neg (by simp [hopen])]

/-- Settles O12: `START` comes beside a `READ` that would block, and with no command left the `READ` is tried
again. -/
theorem suspendedReadWaitsForStartAndADelivery : Obligations.SuspendedReadWaitsForStartAndADelivery := by
  unfold Obligations.SuspendedReadWaitsForStartAndADelivery
  intro s d ts n ht hw hc hn hf ho
  obtain ⟨hcommand, hread⟩ := stepRunsTheCallersCommand s d ts ht
  have hretry (hcmds : s.cmds = []) : step s = exec (.readCmd n) { s with turns := ts, draw := d } :=
    hread n hw fun c cs hcs => by simp [hcmds] at hcs
  refine ⟨fun cs hs hb hcs => ?_, fun hs hb hcs => ?_, fun hs hb hcs => ?_⟩
  · have hstart := (hcommand .start cs hcs (.inr ⟨⟨n, hw⟩, rfl, .inl ⟨hf, ho, hb⟩⟩)).1 .startCmd rfl
    rw [hstart]
    exact startRunsTheWorker _ hs hc
  · have hblocks := (readOfAnEmptyChannel { s with turns := ts, draw := d } n (by simp [hs]) (by simp [hs]) hc hn
      hf hb).2 ho
    rw [hretry hcs, hblocks, ← hw]
  · rw [hretry hcs]
    exact (readReturnsBufferedBytes { s with turns := ts, draw := d } n (by simp [hs]) (by simp [hs]) hc hn
      hf (by simp [ho]) hb).1

/-- Settles O50: what the first `CLOSE` does to the stream in each state, and that a second has no effect. -/
theorem closeByState : Obligations.CloseByState := by
  unfold Obligations.CloseByState
  refine ⟨fun s hc => ⟨fun hs => ?_, fun hs => ?_, fun hs => ?_⟩,
    fun s => ⟨fun hs => ?_, exec_closeCmd_idempotent s⟩⟩
  · rw [exec_closeCmd (by simp [headerKnown, hs]) hc, closeStream_running (by exact hs)]
  · have hk : headerKnown s := by rcases hs with hs | hs <;> simp [headerKnown, hs]
    have hterminal : s.state.terminal = true := by rcases hs with hs | hs <;> simp [hs, StreamState.terminal]
    rw [exec_closeCmd hk hc, closeStream_terminal (by exact hterminal)]
  · refine ⟨_, exec_closeCmd (by simp [headerKnown, hs]) hc, ?_⟩
    rw [closeStream_idle (by exact hs)]
    exact ⟨rfl, rfl, rfl⟩
  · exact exec_closeCmd_without_effect fun h => hs.elim h.1.1 h.1.2

end Sys2Proof.Proofs
end

section
/-! SUPPORT. Proofs of the statements about the worker's operations, each in the phase that runs it (44_sequencer.md
R161 to R168, R178), and about the moves at which an agent has no step (R236). -/

namespace Sys2Proof.Machine

variable {s t : State}

/-! ## The operation that a move of the worker runs (R161, R178) -/

theorem workerMove_cancel (hs : s.state = .running) (hc : s.cancelReq = true) : workerMove s = exec .cancel s :=
  workerMove_of_fetch (by rw [workerFetch, if_pos hs, if_pos hc])

/-- R163: the record that the decoder reads from the bytes at `SRC_OFF`. -/
theorem workerMove_header (hw : workerAt .chdr s) {i : Instr} {rest : List Byte}
    (hi : decode .chunkHeader (srcPeek 8 s) = .op i rest) : workerMove s = exec i s :=
  workerMove_chdr hw (by rw [hi]; rfl)

/-- A move at which the worker has no step (R161) leaves the state as it is. -/
theorem workerMove_waits (h : workerFetch s = none) : workerMove s = .next s := by
  rw [workerMove, h]

theorem workerFetch_not_running (h : s.state ≠ .running) : workerFetch s = none := by
  rw [workerFetch, if_neg h]

theorem workerFetch_blocked (hw : workerAt .deliver s) (hb : deliverBlocked s) : workerFetch s = none := by
  obtain ⟨hs, hc, hph⟩ := hw
  rw [workerFetch, if_pos hs, if_neg (by simp [hc]), hph]
  exact if_pos hb

/-- A caller that is not suspended and has no command left moves without effect. -/
theorem callerMove_idle (hw : s.callerWait = none) (hc : s.cmds = []) : callerMove s = .next s := by
  rw [callerMove, callerFetch_free hw, nextCommand, hc]

/-- A full channel blocks `DELIVER` (R55). -/
theorem deliverBlocked_of_full (hlt : s.dlvPtr.toNat < s.outbuf.length) (hfull : s.cfg.chanCap ≤ s.chan.length) :
    deliverBlocked s :=
  ⟨hlt, fun hr => absurd hr.1 (Nat.not_lt.2 hfull)⟩

/-! ## The hang of R236 -/

/-- The worker is blocked in `DELIVER` on a full channel, the caller has nothing left to do, and no reset is
scheduled. -/
structure Hung (s : State) : Prop where
  worker : workerAt .deliver s
  left : s.dlvPtr.toNat < s.outbuf.length
  full : s.cfg.chanCap ≤ s.chan.length
  free : s.callerWait = none
  silent : s.cmds = []
  noReset : ∀ cfg src, Turn.reset cfg src ∉ s.turns

/-- `t` differs from `s` only in the schedule and the draw. -/
def SameButSchedule (s t : State) : Prop :=
  t = { s with
    turns := t.turns, draw := t.draw, freeCount := t.freeCount, freeMover := t.freeMover, freeLeft := t.freeLeft }

theorem SameButSchedule.trans {u : State} (h : SameButSchedule s t) (h' : SameButSchedule t u) :
    SameButSchedule s u := by
  unfold SameButSchedule at *
  rw [h', h]

/-- Whoever moves, a hung block changes nothing but the schedule and stays hung. -/
theorem Hung.step (h : Hung s) : ∃ t, step s = .next t ∧ Hung t ∧ SameButSchedule s t := by
  rcases takeTurn_cases s with ⟨cfg, src, ts, ht, -⟩ | ⟨a, d, ts, n, m, l, hts, hturn⟩
  · exact absurd (by simp [ht]) (h.noReset cfg src)
  · have hhung : Hung { s with turns := ts, draw := d, freeCount := n, freeMover := m, freeLeft := l } :=
      { h with noReset := fun cfg src hmem => h.noReset cfg src (hts _ hmem) }
    refine ⟨_, ?_, hhung, rfl⟩
    cases a with
    | worker =>
      rw [step_of_worker hturn]
      exact workerMove_waits (workerFetch_blocked hhung.worker (deliverBlocked_of_full hhung.left hhung.full))
    | caller =>
      rw [step_of_caller hturn]
      exact callerMove_idle hhung.free hhung.silent

/-- A hung block stays as it is in runs of any length. -/
theorem Hung.run (k : Nat) (h : Hung s) :
    ∃ t, Host.Core.run Sys2Proof.core k s = .next t ∧ SameButSchedule s t := by
  induction k generalizing s with
  | zero => exact ⟨s, run_zero s, rfl⟩
  | succ k ih =>
    obtain ⟨u, hstep, hu, hsu⟩ := h.step
    obtain ⟨t, hrun, hut⟩ := ih hu
    exact ⟨t, (run_succ k hstep).trans hrun, hsu.trans hut⟩

/-! ## The operations without a fault (R162, R164, R168) -/

/-- R162. -/
theorem exec_eos_ok (hw : workerAt .chdr s) (hd : s.draw.ioFault = false) :
    exec .eos s
      = .next { discardDecoder (beginChunk s) with state := .closed, closeCause := .normal, sinkEnd := .eof } := by
  rw [exec, execEos_at hw, chunkHeaderRead_ok hd]
  rfl

/-- R164, the whole payload. -/
theorem exec_payload_whole (hw : workerAt .payload s) (hd : s.draw.ioFault = false) {p : List Byte}
    (hp : p.length = s.chEnc.toNat) :
    exec (.payload p) s = .next { s with payload := p, phase := .decode, srcOff := s.srcOff + p.length } := by
  rw [exec, execPayload_at hw hp.le, srcRead_ok hd, Flow.bind_go, if_neg (by simp [hp]), Flow.state_go]

/-- R164, a payload that the source cuts short. -/
theorem exec_payload_short (hw : workerAt .payload s) (hd : s.draw.ioFault = false) {p : List Byte}
    (hp : p.length < s.chEnc.toNat) :
    exec (.payload p) s = .next (fail .truncatedChunk { s with srcOff := s.srcOff + p.length }) := by
  rw [exec, execPayload_at hw hp.le, srcRead_ok hd, Flow.bind_go, if_pos hp, Flow.state_ended]

/-- R168: a byte enters `CHAN`. -/
theorem exec_deliver_push (hw : workerAt .deliver s) {b : Byte} (hb : s.outbuf[s.dlvPtr.toNat]? = some b)
    (hr : chanHasRoom s) (hd : s.draw.ioFault = false) :
    exec .deliver s = .next (deliverEnd { s with chan := s.chan ++ [b], dlvPtr := s.dlvPtr + 1 }) := by
  rw [exec, execDeliver_at hw, deliverFlow_push hb hr hd, Flow.state_go]

/-- R168: no byte is left. -/
theorem exec_deliver_end (hw : workerAt .deliver s) (h : s.outbuf.length ≤ s.dlvPtr.toNat) :
    exec .deliver s = .next (deliverEnd s) := by
  rw [exec, execDeliver_at hw, deliverFlow_end h, Flow.state_go]

/-- R168, R169: a chunk whose every byte is delivered is counted. -/
theorem deliverEnd_done (h : s.dlvPtr.toNat = s.outbuf.length) :
    deliverEnd s = { s with chunkCount := s.chunkCount + 1, phase := .chdr } := by
  rw [deliverEnd, if_pos h]

theorem deliverEnd_more (h : s.dlvPtr.toNat ≠ s.outbuf.length) : deliverEnd s = s := by
  rw [deliverEnd, if_neg h]

/-- `DLV_PTR` does not wrap while it points into an `OUTBUF` of at most 65535 bytes (R34). -/
theorem dlvPtr_succ (hlen : s.outbuf.length ≤ 65535) (hlt : s.dlvPtr.toNat < s.outbuf.length) :
    (s.dlvPtr + 1).toNat = s.dlvPtr.toNat + 1 := by
  rw [BitVec.toNat_add]; simp; omega

/-! ## The codec select (R74, R165) -/

theorem exec_selUnsupported {c : BitVec 8} (hat : codecAt c s) (h1 : c ≠ 1) (h99 : c ≠ 99) :
    exec (.selUnsupported c) s = .next (fail .unsupportedCodec s) := by
  rw [exec, execSelUnsupported, if_pos ⟨hat, h1, h99⟩]
  rfl

theorem exec_dispatch_unsupported {c : BitVec 8} (hat : codecAt c s) (h1 : c ≠ 1) (h99 : c ≠ 99) :
    exec .dispatch s = .next (fail .unsupportedCodec s) := by
  obtain ⟨hw, rfl⟩ := hat
  rw [exec, execDispatch_at hw, if_neg h99, if_neg h1]
  rfl

end Sys2Proof.Machine

namespace Sys2Proof.Proofs

open Sys2Proof Sys2Proof.Machine

/-- Settles O13: a worker without a step waits, and with an idle caller a full channel hangs the block. -/
theorem workerWithoutAStepWaits : Obligations.WorkerWithoutAStepWaits := by
  unfold Obligations.WorkerWithoutAStepWaits
  constructor
  · intro s d ts ht hnone
    rw [step_worker ht]
    refine workerMove_waits ?_
    by_cases hs : s.state = .running
    · obtain ⟨hc, hph, hlt, hfull⟩ := hnone.resolve_left (not_not_intro hs)
      exact workerFetch_blocked ⟨hs, hc, hph⟩ (deliverBlocked_of_full hlt hfull)
    · exact workerFetch_not_running hs
  · intro s k hw hlt hfull hwait hcmds hreset
    exact Hung.run k ⟨hw, hlt, hfull, hwait, hcmds, hreset⟩

/-- Settles O10: the worker's fetch, case by case. -/
theorem stepRunsTheWorkersOperation : Obligations.StepRunsTheWorkersOperation := by
  unfold Obligations.StepRunsTheWorkersOperation
  rintro s t d ts i ht rfl hs hcase
  rw [step_worker ht]
  rcases hcase with ⟨hc, rfl⟩ | ⟨hc, hph, rest, hi⟩ | ⟨hc, hph, rfl⟩ | ⟨hc, hph, rfl⟩ | ⟨hc, hph, hb, rfl⟩
  · exact workerMove_cancel hs hc
  · have hw : workerAt .chdr { s with turns := ts, draw := d } := ⟨hs, hc, hph⟩
    exact workerMove_header hw hi
  · exact workerMove_payload ⟨hs, hc, hph⟩
  · exact workerMove_decode ⟨hs, hc, hph⟩
  · exact workerMove_deliver ⟨hs, hc, hph⟩ hb

/-- Settles O37: the read of no byte goes on to the normal close. -/
theorem endOfSourceClosesTheStream : Obligations.EndOfSourceClosesTheStream := by
  unfold Obligations.EndOfSourceClosesTheStream
  intro s hw hd
  exact ⟨_, exec_eos_ok hw hd, rfl, rfl, rfl, rfl, rfl, rfl, rfl⟩

/-- Settles O38, by whether the read returned all of `CH_ENC` bytes. -/
theorem payloadIsReadWhole : Obligations.PayloadIsReadWhole := by
  unfold Obligations.PayloadIsReadWhole
  intro s p hw hd
  exact ⟨exec_payload_whole hw hd, fun hp => ⟨_, exec_payload_short hw hd hp, fail_failedWith _ _⟩⟩

/-- Settles O40: neither operation selects a codec. -/
theorem unsupportedCodecFailsTheStream : Obligations.UnsupportedCodecFailsTheStream := by
  unfold Obligations.UnsupportedCodecFailsTheStream
  intro s c i hat h1 h99 hi
  refine ⟨fail .unsupportedCodec s, ?_, fail_failedWith _ _⟩
  simp only [List.mem_cons, List.not_mem_nil, or_false] at hi
  obtain rfl | rfl := hi
  · exact exec_selUnsupported hat h1 h99
  · exact exec_dispatch_unsupported hat h1 h99

/-- Settles O39, by the type that `FH_CTYPE` holds. -/
theorem dispatchRunsTheSelectedArm : Obligations.DispatchRunsTheSelectedArm := by
  unfold Obligations.DispatchRunsTheSelectedArm
  intro s hw
  by_cases h1 : s.fhCtype = 1
  · rw [h1, exec, execDispatch_ws8 ⟨hw, h1⟩]
    exact (execSelWs8_at ⟨hw, h1⟩).symm
  · by_cases h99 : s.fhCtype = 99
    · rw [h99, exec, execDispatch_ima4 ⟨hw, h99⟩]
      exact (execSelIma4_at ⟨hw, h99⟩).symm
    · have hother : (Instr.selUnsupported s.fhCtype).wellFormed = true :=
        Bool.and_eq_true_iff.2 ⟨bne_iff_ne.2 h1, bne_iff_ne.2 h99⟩
      rw [decodeCodec_unsupported hother, exec_dispatch_unsupported ⟨hw, rfl⟩ h1 h99,
        exec_selUnsupported ⟨hw, rfl⟩ h1 h99]

/-- Settles O41, by whether the byte is the chunk's last. -/
theorem deliverPushesTheNextByte : Obligations.DeliverPushesTheNextByte := by
  unfold Obligations.DeliverPushesTheNextByte
  intro s b hw hlen hb hroom hc hd
  have hptr := dlvPtr_succ hlen (List.getElem?_eq_some_iff.1 hb).1
  refine ⟨_, exec_deliver_push hw hb ⟨hroom, hc⟩ hd, ?_⟩
  split_ifs with hlast
  · rw [deliverEnd_done (hptr.trans hlast)]
    exact ⟨rfl, hptr, ⟨rfl, rfl⟩, rfl⟩
  · rw [deliverEnd_more (hptr.trans_ne hlast)]
    exact ⟨rfl, hptr, ⟨hw.2.2, rfl⟩, rfl⟩

/-- Settles O42: no byte left, no room, and a fault at the push. -/
theorem deliverWithoutAPush : Obligations.DeliverWithoutAPush := by
  unfold Obligations.DeliverWithoutAPush
  intro s hw
  refine ⟨fun hdone => ?_, fun hlt hfull => ?_, fun hlt hroom hc hd => ?_⟩
  · rw [exec_deliver_end hw hdone.ge, deliverEnd_done hdone]
  · rw [exec, execDeliver_at hw, deliverFlow_blocked (deliverBlocked_of_full hlt hfull), Flow.state_go]
  · refine ⟨fail .ioFailure s, ?_, fail_failedWith _ _⟩
    rw [exec, execDeliver_at hw, deliverFlow_fault (List.getElem?_eq_getElem hlt) ⟨hroom, hc⟩ hd, Flow.state_ended]

/-- Settles O43: the cancel step looks neither at the phase nor at the draw. -/
theorem cancelEndsTheStream : Obligations.CancelEndsTheStream := by
  unfold Obligations.CancelEndsTheStream
  intro s hs hc
  refine ⟨{ discardDecoder s with state := .closed, closeCause := .cancelled, outbuf := [], payload := [] }, ?_,
    rfl, rfl, rfl⟩
  rw [exec, execCancel, if_pos ⟨hs, hc⟩]

end Sys2Proof.Proofs
end

section
/-! SUPPORT. Proofs of the statements about what stays: a failure that a `READ` has shown (44_sequencer.md R176), and
the observation of a run that is over (R180). -/

namespace Sys2Proof.Machine

variable {s t : State}

/-! ## A failure that has surfaced (R176) -/

/-- R206: a failure surfaces only after the chunk-level failure entry. -/
theorem RegInv.failed_of_failSeen (h : RegInv s) (hf : s.failSeen = true) : s.state = .failed :=
  h.abnormalIff.1 (h.failSeenAbnormal hf).1

@[simp] theorem closeStream_failSeen (s : State) : (closeStream s).failSeen = s.failSeen := by
  rw [closeStream]
  split <;> rfl

/-- No command of the caller but `OPEN` clears `FAIL_SEEN`. -/
theorem CallerEffect.keeps_failSeen (he : CallerEffect s t) (hs : s.state ≠ .noStream) (hf : s.failSeen = true) :
    t.failSeen = true := by
  cases he with
  | opened _ _ _ _ _ h _ => exact absurd h hs
  | openFailed _ _ h _ _ _ => exact absurd h hs
  | surfaced _ _ _ _ => rfl
  | closed _ _ => simpa using hf
  | _ => exact hf

/-! ## The answers (R180) -/

/-- The final answer is `END` or an `ERROR`. -/
theorem finalAnswer_cases {results : List HostResult} (h : finalAnswer results ≠ none) :
    finalAnswer results = some .endOfStream ∨ ∃ e, finalAnswer results = some (.error e) := by
  unfold finalAnswer at h ⊢
  cases hlast : (results.filter HostResult.ofRead).getLast? with
  | none => simp [hlast] at h
  | some r => cases r <;> simp [hlast, HostResult.ending] at h ⊢

/-- Only the bytes of a `READ` add to the byte lists that the observation shows. -/
theorem HostResult.bytes?_of_not_ofRead {r : HostResult} (h : r.ofRead = false) : r.bytes? = none := by
  cases r with
  | bytes _ => cases h
  | _ => rfl

/-- An answer without bytes that leaves the final answer as it is shows nothing new. -/
theorem observe_of_answer {r : HostResult}
    (ht : t = { s with results := s.results ++ [r], callerWait := t.callerWait }) (hb : r.bytes? = none) (hfinal : finalAnswer (s.results ++ [r]) = finalAnswer s.results) :
    observe t = observe s := by
  rw [ht]
  simp only [observe, hfinal, List.filterMap_append, List.filterMap_cons, List.filterMap_nil, hb, List.append_nil]

/-! ## What the invariant says of an answered end (R175, R176) -/

/-- A failure surfaces after an abnormal close, and `END` is answered after a normal one. -/
theorem RegInv.noEnd_of_failSeen (h : RegInv s) (hf : s.failSeen = true) :
    finalAnswer s.results ≠ some .endOfStream := fun he => by
  have hends := (h.failSeenAbnormal hf).1.symm.trans (h.endSeen he)
  cases hends

/-- With no failure surfaced a final answer is `END`. -/
theorem RegInv.end_of_not_failSeen (h : RegInv s) (hf : s.failSeen = false) (hfinal : finalAnswer s.results ≠ none) :
    finalAnswer s.results = some .endOfStream :=
  (finalAnswer_cases hfinal).resolve_right fun ⟨e, he⟩ => by simp [(h.errorSeen e he).1] at hf

/-- With the failure surfaced a final answer is the `ERROR` that `ERR` holds. -/
theorem RegInv.error_of_failSeen (h : RegInv s) (hf : s.failSeen = true) (hfinal : finalAnswer s.results ≠ none) :
    finalAnswer s.results = some (.error s.err) := by
  obtain ⟨e, he⟩ := (finalAnswer_cases hfinal).resolve_left (h.noEnd_of_failSeen hf)
  rw [he, (h.errorSeen e he).2]

/-! ## A run that is over (R180) -/

/-- A stream that the caller has not closed is over once it is drained and has answered its end. -/
theorem drained_of_runOver (ho : runOver s) (hk : headerKnown s) (hc : s.callerClosed = false) :
    s.chan = [] ∧ finalAnswer s.results ≠ none := by
  rcases ho.2 with hcl | hof | hdrained
  · simp [hc] at hcl
  · exact absurd hof hk.2
  · exact hdrained

/-- What is shown of a run that is over decides, with the channel, that it is over. -/
theorem runOver_of_observe (ho : runOver s) (hobs : observe t = observe s) (hcl : t.callerClosed = s.callerClosed)
    (hchan : t.chan = s.chan) : runOver t := by
  have hstate : t.state = s.state := congrArg Observation.state hobs
  have hfinal : finalAnswer t.results = finalAnswer s.results := congrArg Observation.final hobs
  rw [runOver, hstate, hcl, hchan, hfinal]
  exact ho

/-- An answer of a `READ` in a run that is over repeats the final answer. -/
theorem RegInv.answer_repeats (h : RegInv s) (hfinal : finalAnswer s.results ≠ none) {r : HostResult}
    (hr : (r = .error s.err ∧ s.failSeen = true) ∨
      (r = .endOfStream ∧ s.failSeen = false ∧ s.sinkEnd = .eof ∧ s.chan = [])) :
    r.bytes? = none ∧ finalAnswer (s.results ++ [r]) = finalAnswer s.results := by
  rcases hr with ⟨rfl, hf⟩ | ⟨rfl, hf, -, -⟩
  · exact ⟨rfl, by rw [finalAnswer_append, h.error_of_failSeen hf hfinal]; rfl⟩
  · exact ⟨rfl, by rw [finalAnswer_append, h.end_of_not_failSeen hf hfinal]; rfl⟩

/-- No command of the caller changes what a run that is over shows. -/
theorem CallerEffect.keeps_runOver (he : CallerEffect s t) (h : RegInv s) (ho : runOver s) :
    runOver t ∧ observe t = observe s := by
  obtain ⟨hno, hidle, -⟩ := ne_of_terminal ho.1
  cases he with
  | nothing => exact ⟨ho, rfl⟩
  | opened _ _ _ _ _ hs _ => exact absurd hs hno
  | openFailed _ _ hs _ _ _ => exact absurd hs hno
  | started hs _ => exact absurd hs hidle
  | popped _ hk hc _ hb => exact absurd (drained_of_runOver ho hk hc).1 hb
  | surfaced hk hc hf ha =>
    have hend := h.endSeen (h.end_of_not_failSeen hf (drained_of_runOver ho hk hc).2)
    rw [ha] at hend
    cases hend
  | ended r hk hc hr =>
    obtain ⟨hb, hfinal⟩ := h.answer_repeats (drained_of_runOver ho hk hc).2 hr
    have hobs : observe (answer r s) = observe s := observe_of_answer rfl hb hfinal
    exact ⟨runOver_of_observe ho hobs rfl rfl, hobs⟩
  | answered r hr =>
    have hfinal : finalAnswer (s.results ++ [r]) = finalAnswer s.results := by rw [finalAnswer_append, hr]; rfl
    have hobs : observe (record r s) = observe s :=
      observe_of_answer rfl (HostResult.bytes?_of_not_ofRead hr) hfinal
    exact ⟨runOver_of_observe ho hobs rfl rfl, hobs⟩
  | suspended _ _ _ _ _ => exact ⟨ho, rfl⟩
  | closed _ _ =>
    rw [closeStream_terminal (by exact ho.1)]
    exact ⟨⟨ho.1, .inl rfl⟩, rfl⟩

end Sys2Proof.Machine

namespace Sys2Proof.Proofs

open Sys2Proof Sys2Proof.Machine

/-- Settles O49: with `FAIL_SEEN` set a `READ` answers the error, an `ERROR` sets it, and after the failure no step
of either agent clears it. -/
theorem failureIsSticky : Obligations.FailureIsSticky := by
  unfold Obligations.FailureIsSticky
  refine ⟨fun s n hf hno hof hc hn => ?_, fun s t n hread ⟨e, he⟩ => ?_, fun s t h hf hn hstep => ?_⟩
  · rw [exec_readCmd hno hof hc hn, readAdmitted_failSeen n hf]
    rfl
  · rw [exec, execRead] at hread
    split_ifs at hread
    injection hread with hread
    subst hread
    exact readAdmitted_error he
  · have hs := h.failed_of_failSeen hf
    have herr := (terminalStatesAreLeftOnlyByReset s t (.inr (.inl hs)) hn hstep).2.1
    refine ⟨?_, herr⟩
    obtain ⟨u, hu, he | he⟩ := step_effect_of_not_reset hn hstep <;> rw [hu] at he
    · rw [he.eq_of_not_running (by simp [hs])]
      exact hf
    · exact he.keeps_failSeen (by simp [hs]) hf

/-- Settles O60: the worker has no step, and what the caller may still get repeats the final answer. -/
theorem runOverKeepsTheObservation : Obligations.RunOverKeepsTheObservation := by
  unfold Obligations.RunOverKeepsTheObservation
  intro s t h ho hn hstep
  rcases step_effect hstep with ⟨cfg, src, ts, ht, -⟩ | ⟨d, ts, n, m, l, cs, hts, he | he⟩
  · exact absurd ht (hn cfg src ts)
  · rw [he.eq_of_not_running (ne_of_terminal ho.1).2.2]
    exact ⟨ho, rfl⟩
  · exact he.keeps_runOver (h.of_schedule hts d n m l cs) ho

end Sys2Proof.Proofs
end

section
/-! SUPPORT. Proofs of the statements about whole chunks and containers (44_sequencer.md R181, R182), for both codecs
at once: `Codec` is what the loop needs of a codec, and `Codec.Lawful` what its decode must satisfy. -/

namespace Sys2Proof.Machine

open Reference

variable {s : State} {ts : List Turn}

/-! ## The worker's listed moves without a fault, one per phase -/

/-- What the chunk header's move leaves, with the turns `ts` left (R102, R163). -/
def headerTaken (enc dec : BitVec 16) (ts : List Turn) (s : State) : State :=
  { s with
    outbuf := [], payload := [], dlvPtr := 0, chEnc := enc, chDec := dec, chMagic := s.cfg.chunkMagic,
    srcOff := s.srcOff + 8, phase := .payload, turns := ts, draw := quietDraw }

theorem step_header (hw : workerAt .chdr s) {enc dec : BitVec 16} {tail : List Byte}
    (hsrc : s.src.drop s.srcOff = bytes16 enc ++ bytes16 dec ++ bytes32 s.cfg.chunkMagic ++ tail)
    (ht : s.turns = .worker quietDraw :: ts) : step s = .next (headerTaken enc dec ts s) := by
  have hw' : workerAt .chdr { s with turns := ts, draw := quietDraw } := hw
  have hpeek : srcPeek 8 { s with turns := ts, draw := quietDraw }
      = bytes16 enc ++ bytes16 dec ++ bytes32 s.cfg.chunkMagic ++ [] := by rw [srcPeek, hsrc]; rfl
  rw [step_worker ht, workerMove_header hw' (by rw [hpeek, decode_chdr_bytes])]
  exact Proofs.chunkHeaderIsRecorded _ enc dec _ hw' rfl (.inr rfl)

/-- What the payload's move leaves, with the turns `ts` left (R164). -/
def payloadTaken (p : List Byte) (ts : List Turn) (s : State) : State :=
  { s with payload := p, phase := .decode, srcOff := s.srcOff + p.length, turns := ts, draw := quietDraw }

theorem step_payload (hw : workerAt .payload s) {p rest : List Byte} (hp : p.length = s.chEnc.toNat)
    (hsrc : s.src.drop s.srcOff = p ++ rest) (ht : s.turns = .worker quietDraw :: ts) :
    step s = .next (payloadTaken p ts s) := by
  have hw' : workerAt .payload { s with turns := ts, draw := quietDraw } := hw
  have hpeek : srcPeek s.chEnc.toNat { s with turns := ts, draw := quietDraw } = p := by
    rw [srcPeek, hsrc, ← hp, List.take_left]
  rw [step_worker ht, workerMove_payload hw', hpeek, exec_payload_whole hw' rfl hp]
  rfl

/-- R165: the decode's move. -/
theorem step_decode (hw : workerAt .decode s) {d : Draw} (ht : s.turns = .worker d :: ts) :
    step s = exec .dispatch { s with turns := ts, draw := d } := by
  rw [step_worker ht]
  exact workerMove_decode hw

/-- R168: the move that delivers a byte. -/
theorem step_push (hw : workerAt .deliver s) {b : Byte} (hb : s.outbuf[s.dlvPtr.toNat]? = some b)
    (hr : chanHasRoom s) (ht : s.turns = .worker quietDraw :: ts) :
    step s = .next (deliverEnd { s with
      chan := s.chan ++ [b], dlvPtr := s.dlvPtr + 1, turns := ts, draw := quietDraw }) := by
  have hw' : workerAt .deliver { s with turns := ts, draw := quietDraw } := hw
  rw [step_worker ht, workerMove_deliver hw' fun hblocked => hblocked.2 hr]
  exact exec_deliver_push hw' hb hr rfl

/-- R168: the move that ends a chunk without a byte left. -/
theorem step_delivered (hw : workerAt .deliver s) (hdone : s.dlvPtr.toNat = s.outbuf.length) {d : Draw}
    (ht : s.turns = .worker d :: ts) :
    step s = .next { s with chunkCount := s.chunkCount + 1, phase := .chdr, turns := ts, draw := d } := by
  have hw' : workerAt .deliver { s with turns := ts, draw := d } := hw
  rw [step_worker ht, workerMove_deliver hw' fun hblocked => absurd hblocked.1 hdone.not_lt,
    exec_deliver_end hw' hdone.ge, deliverEnd_done (by exact hdone)]

/-- R162: the move at the end of the source. -/
theorem step_eos (hw : workerAt .chdr s) (hsrc : s.src.drop s.srcOff = []) (ht : s.turns = .worker quietDraw :: ts) :
    step s = .next { discardDecoder (beginChunk s) with
      state := .closed, closeCause := .normal, sinkEnd := .eof, turns := ts, draw := quietDraw } := by
  have hw' : workerAt .chdr { s with turns := ts, draw := quietDraw } := hw
  have hpeek : srcPeek 8 { s with turns := ts, draw := quietDraw } = [] := by rw [srcPeek, hsrc]; rfl
  rw [step_worker ht, workerMove_header hw' (by rw [hpeek]; rfl)]
  exact exec_eos_ok hw' rfl

/-! ## The two reads and the delivery -/

/-- A chunk ready to be decoded, with the turns `ts` left. -/
def chunkRead (enc dec : BitVec 16) (p : List Byte) (ts : List Turn) (s : State) : State :=
  payloadTaken p ts (headerTaken enc dec ts s)

/-- The first two moves of a chunk leave it ready to be decoded (R102, R163, R164). -/
theorem run_reads (hw : workerAt .chdr s) {enc dec : BitVec 16} {p rest : List Byte} (hp : p.length = enc.toNat)
    (hsrc : s.src.drop s.srcOff = bytes16 enc ++ bytes16 dec ++ bytes32 s.cfg.chunkMagic ++ p ++ rest)
    (ht : s.turns = .worker quietDraw :: .worker quietDraw :: ts) :
    Host.Core.run Sys2Proof.core 2 s = .next (chunkRead enc dec p ts s) := by
  have hheader := step_header hw (by rw [hsrc, List.append_assoc]) ht
  have hw' : workerAt .payload (headerTaken enc dec (.worker quietDraw :: ts) s) := ⟨hw.1, hw.2.1, rfl⟩
  have hsrc' : s.src.drop (s.srcOff + 8) = p ++ rest := by
    rw [← List.drop_drop, hsrc, List.append_assoc]; rfl
  rw [run_succ 1 hheader, run_succ 0 (step_payload hw' hp hsrc' rfl), run_zero]
  rfl

/-- With room in `CHAN` the bytes of `OUTBUF` from `DLV_PTR` on enter it one by one, and the chunk is counted
(R168, R169). A chunk of no byte takes one move too. -/
theorem run_delivery (n : Nat) (hw : workerAt .deliver s) (hc : s.callerClosed = false)
    (hlen : s.outbuf.length ≤ 65535) (hn : s.dlvPtr.toNat + n = s.outbuf.length)
    (hroom : s.chan.length + n ≤ s.cfg.chanCap)
    (ht : s.turns = List.replicate (max 1 n) (.worker quietDraw) ++ ts) :
    ∃ q, Host.Core.run Sys2Proof.core (max 1 n) s = .next { s with
      chan := s.chan ++ s.outbuf.drop s.dlvPtr.toNat, dlvPtr := q, phase := .chdr, chunkCount := s.chunkCount + 1,
      turns := ts, draw := quietDraw } := by
  induction n generalizing s with
  | zero =>
    have hdrop : s.outbuf.drop s.dlvPtr.toNat = [] := List.drop_eq_nil_of_le hn.ge
    refine ⟨s.dlvPtr, ?_⟩
    rw [hdrop, List.append_nil]
    exact run_succ 0 (step_delivered hw hn ht)
  | succ n ih =>
    have hlt : s.dlvPtr.toNat < s.outbuf.length := by omega
    have hptr := dlvPtr_succ hlen hlt
    have hmax : max 1 (n + 1) = n + 1 := by omega
    rw [hmax] at ht ⊢
    have hstep := step_push hw (List.getElem?_eq_getElem hlt) ⟨by omega, hc⟩ ht
    rw [List.drop_eq_getElem_cons hlt]
    rcases n.eq_zero_or_pos with rfl | hpos
    · have hdrop : s.outbuf.drop (s.dlvPtr.toNat + 1) = [] := List.drop_eq_nil_of_le hn.ge
      rw [deliverEnd_done (by exact hptr.trans hn)] at hstep
      exact ⟨_, by rw [hdrop]; exact run_succ 0 hstep⟩
    · rw [deliverEnd_more (by simp only [hptr]; omega)] at hstep
      have hmax : max 1 n = n := by omega
      obtain ⟨q, hrun⟩ := ih (s := { s with
          chan := s.chan ++ [s.outbuf[s.dlvPtr.toNat]], dlvPtr := s.dlvPtr + 1,
          turns := List.replicate n (.worker quietDraw) ++ ts, draw := quietDraw })
        hw hc hlen (by simp only [hptr]; omega) (by simp only [List.length_append, List.length_singleton]; omega)
        (by rw [hmax])
      rw [hmax] at hrun
      simp only [hptr, List.append_assoc, List.singleton_append] at hrun
      exact ⟨q, (run_succ n hstep).trans hrun⟩

/-! ## What the loop needs of a codec -/

/-- A codec: its `compressionType`, the decoder state in its registers as numbers, its decoder on integers, and how
many bytes a payload decodes to. -/
structure Codec (α : Type) where
  ctype : BitVec 8
  state : State → α
  decode : Params → α → List Byte → List Int × α
  size : List Byte → Nat

/-- IMA4 (R74, R123 to R125). -/
def imaCodec : Codec (Nat × Int) where
  ctype := 99
  state s := (s.imaIndex.val, s.imaPred.toInt)
  decode := imaDecode
  size p := 4 * p.length

/-- WS8 (R74, R141 to R145). -/
def ws8Codec : Codec Int where
  ctype := 1
  state s := s.ws8Pred.toNat
  decode := ws8Decode
  size := ws8Size

/-- What the decode of a chunk leaves: the decoder's registers, the output, and delivery next (R165). -/
def decodeTaken (i : Fin 89) (a : BitVec 16) (b : BitVec 8) (out : List Byte) (s : State) : State :=
  { s with imaIndex := i, imaPred := a, ws8Pred := b, outbuf := out, dlvPtr := 0, phase := .deliver }

variable {α : Type} {c : Codec α}

/-- The codec's decoder state is in the decoder's registers alone, payloads decode one after the other, and the
dispatch of a chunk whose sizes agree decodes it (R29, R127, R147, R165). -/
structure Codec.Lawful (c : Codec α) : Prop where
  state_congr : ∀ s t, SameDecoder s t → c.state t = c.state s
  decode_nil : ∀ cfg st, c.decode cfg st [] = ([], st)
  decode_append : ∀ cfg st p q, c.decode cfg st (p ++ q)
    = ((c.decode cfg st p).1 ++ (c.decode cfg (c.decode cfg st p).2 q).1, (c.decode cfg (c.decode cfg st p).2 q).2)
  size_append : ∀ p q, c.size (p ++ q) = c.size p + c.size q
  dispatch : ∀ s, codecAt c.ctype s → s.outbuf = [] → s.payload.length = s.chEnc.toNat →
    s.chDec.toNat = c.size s.payload →
    ∃ i a b out, exec .dispatch s = .next (decodeTaken i a b out s) ∧
      values out = (c.decode s.cfg (c.state s) s.payload).1 ∧ out.length = s.chDec.toNat ∧
      c.state (decodeTaken i a b out s) = (c.decode s.cfg (c.state s) s.payload).2

theorem imaCodec_lawful : imaCodec.Lawful where
  state_congr := fun s t ⟨hindex, hpred, _⟩ => by simp only [imaCodec, hindex, hpred]
  decode_nil := fun _ _ => rfl
  decode_append := imaDecode_append
  size_append := fun p q => by simp only [imaCodec, List.length_append]; omega
  dispatch := fun s hat hempty hpayload hsize => by
    obtain ⟨t, -, hbytes, hlength, hstate, hframe, hdispatch, -⟩ :=
      Proofs.imaChunkRefinesTheIntegerDecoder s _ hat hempty hpayload (by rw [hsize, ← hpayload]; rfl) rfl
    exact ⟨t.imaIndex, t.imaPred, s.ws8Pred, t.outbuf, by rw [hdispatch, hframe]; rfl, hbytes, hlength, hstate⟩

theorem ws8Codec_lawful : ws8Codec.Lawful where
  state_congr := fun s t ⟨_, _, hpred⟩ => by simp only [ws8Codec, hpred]
  decode_nil := fun _ _ => rfl
  decode_append := ws8Decode_append
  size_append := ws8Size_append
  dispatch := fun s hat hempty hpayload hsize => by
    have hlen := (ws8Decode_length s.cfg s.ws8Pred.toNat s.payload).trans hsize.symm
    obtain ⟨t, -, hbytes, hpred, hframe, hdispatch, -⟩ :=
      Proofs.ws8ChunkRefinesTheIntegerDecoder s _ hat hempty hpayload rfl hlen
    have hlength : t.outbuf.length = s.chDec.toNat := by rw [← values_length, hbytes, hlen]
    exact ⟨s.imaIndex, s.imaPred, t.ws8Pred, t.outbuf, by rw [hdispatch, hframe]; rfl, hbytes, hlength, hpred⟩

/-! ## One chunk (R182) -/

/-- The worker of an open stream of the codec is about to read a chunk header, and `CHAN` has room for `n` bytes. -/
structure Codec.Ready (c : Codec α) (s : State) (n : Nat) : Prop where
  worker : workerAt .chdr s
  callerOpen : s.callerClosed = false
  ctype : s.fhCtype = c.ctype
  room : s.chan.length + n ≤ s.cfg.chanCap

/-- What the chunk with the payload `p` leaves of `s`, with the turns `ts` left. -/
structure Codec.Passed (c : Codec α) (s t : State) (p : List Byte) (ts : List Turn) : Prop where
  turns : t.turns = ts
  srcOff : t.srcOff = s.srcOff + 8 + p.length
  chunkCount : t.chunkCount = s.chunkCount + 1
  chan : values t.chan = values s.chan ++ (c.decode s.cfg (c.state s) p).1
  chanLength : t.chan.length = s.chan.length + c.size p
  decoder : c.state t = (c.decode s.cfg (c.state s) p).2
  /-- Everything else but the chunk's registers and buffers is as before. -/
  frame : t = { s with
    payload := t.payload, outbuf := t.outbuf, dlvPtr := t.dlvPtr, chEnc := t.chEnc, chDec := t.chDec,
    chMagic := t.chMagic, srcOff := t.srcOff, chunkCount := t.chunkCount, chan := t.chan, imaIndex := t.imaIndex,
    imaPred := t.imaPred, ws8Pred := t.ws8Pred, turns := t.turns, draw := t.draw }

/-- The moves of the worker that a chunk takes: two reads, the decode, and a delivery per byte, at least one. -/
def Codec.chunkTurns (c : Codec α) (p : List Byte) : Nat := 3 + max 1 (c.size p)

/-- The first three moves of a well-formed chunk leave its bytes ready for delivery. -/
theorem Codec.Lawful.run_decode (hc : c.Lawful) {enc dec : BitVec 16} {p rest : List Byte}
    (hw : workerAt .chdr s) (hctype : s.fhCtype = c.ctype) (hp : p.length = enc.toNat) (hd : dec.toNat = c.size p)
    (hsrc : s.src.drop s.srcOff = bytes16 enc ++ bytes16 dec ++ bytes32 s.cfg.chunkMagic ++ p ++ rest)
    (ht : s.turns = List.replicate 3 (.worker quietDraw) ++ ts) :
    ∃ i a b out, Host.Core.run Sys2Proof.core 3 s = .next (decodeTaken i a b out (chunkRead enc dec p ts s)) ∧
      values out = (c.decode s.cfg (c.state s) p).1 ∧ out.length = c.size p ∧
      c.state (decodeTaken i a b out (chunkRead enc dec p ts s)) = (c.decode s.cfg (c.state s) p).2 := by
  have hreads := run_reads hw hp hsrc ht
  have hw' (us : List Turn) : workerAt .decode (chunkRead enc dec p us s) := ⟨hw.1, hw.2.1, rfl⟩
  obtain ⟨i, a, b, out, hdispatch, hbytes, hlength, hstate⟩ :=
    hc.dispatch (chunkRead enc dec p ts s) ⟨hw' ts, hctype⟩ rfl hp hd
  have hinput : c.state (chunkRead enc dec p ts s) = c.state s := hc.state_congr s _ ⟨rfl, rfl, rfl⟩
  rw [hinput] at hbytes hstate
  have hdecode : step (chunkRead enc dec p (.worker quietDraw :: ts) s)
      = .next (decodeTaken i a b out (chunkRead enc dec p ts s)) := by
    rw [step_decode (hw' _) rfl]
    exact hdispatch
  exact ⟨i, a, b, out, (run_add 2 1 _ _ hreads).trans (run_succ 0 hdecode), hbytes, hlength.trans hd, hstate⟩

/-- A well-formed chunk passes through the loop. -/
theorem Codec.Lawful.run_chunk (hc : c.Lawful) {enc dec : BitVec 16} {p rest : List Byte}
    (hs : c.Ready s (c.size p)) (hp : p.length = enc.toNat) (hd : dec.toNat = c.size p)
    (hsrc : s.src.drop s.srcOff = bytes16 enc ++ bytes16 dec ++ bytes32 s.cfg.chunkMagic ++ p ++ rest)
    (ht : s.turns = List.replicate (c.chunkTurns p) (.worker quietDraw) ++ ts) :
    ∃ t, Host.Core.run Sys2Proof.core (c.chunkTurns p) s = .next t ∧ c.Passed s t p ts := by
  obtain ⟨hw, hcaller, hctype, hroom⟩ := hs
  rw [Codec.chunkTurns, List.replicate_add, List.append_assoc] at ht
  obtain ⟨i, a, b, out, hdecode, hbytes, hlength, hstate⟩ := hc.run_decode hw hctype hp hd hsrc ht
  have hout : out.length ≤ 65535 := by have := dec.isLt; omega
  obtain ⟨q, hdelivery⟩ := run_delivery (c.size p)
    (s := decodeTaken i a b out (chunkRead enc dec p (List.replicate (max 1 (c.size p)) (.worker quietDraw) ++ ts) s))
    ⟨hw.1, hw.2.1, rfl⟩ hcaller hout (by simp [decodeTaken, hlength]) hroom rfl
  exact ⟨_, (run_add _ _ _ _ hdecode).trans hdelivery, {
    turns := rfl
    srcOff := rfl
    chunkCount := rfl
    chan := by rw [← hbytes, ← values_append]; rfl
    chanLength := by rw [← hlength, ← List.length_append]; rfl
    decoder := by rw [← hstate]; exact hc.state_congr _ _ ⟨rfl, rfl, rfl⟩
    frame := by
      obtain ⟨-, -, hph⟩ := hw
      simp only [← hph]
      rfl }⟩

/-! ## A container (R181, R182) -/

/-- The bytes of a well-formed chunk with the payload `p` (R71, R102). -/
def Codec.chunkBytes (c : Codec α) (cfg : Params) (p : List Byte) : List Byte :=
  bytes16 (BitVec.ofNat 16 p.length) ++ bytes16 (BitVec.ofNat 16 (c.size p)) ++ bytes32 cfg.chunkMagic ++ p

theorem Codec.chunkBytes_length (cfg : Params) (p : List Byte) : (c.chunkBytes cfg p).length = 8 + p.length := by
  simp [Codec.chunkBytes, bytes16, bytes32]; omega

/-- What the chunks leave of `s` at the end of the source (R162, R181). -/
structure Codec.Closed (c : Codec α) (s t : State) (chunks : List (List Byte)) : Prop where
  state : t.state = .closed
  closeCause : t.closeCause = .normal
  err : t.err = s.err
  sinkEnd : t.sinkEnd = .eof
  chunkCount : t.chunkCount = s.chunkCount + chunks.length
  chan : values t.chan = values s.chan ++ (c.decode s.cfg (c.state s) chunks.flatten).1

/-- A chunk that is passed leaves the worker ready for what the room was kept for besides. -/
theorem Codec.Passed.ready {t : State} {p : List Byte} {n : Nat} (h : c.Passed s t p ts)
    (hs : c.Ready s (c.size p + n)) : c.Ready t n where
  worker := by rw [h.frame]; exact hs.worker
  callerOpen := by rw [h.frame]; exact hs.callerOpen
  ctype := by rw [h.frame]; exact hs.ctype
  room := by
    have hcfg : t.cfg = s.cfg := by rw [h.frame]
    have hroom := hs.room
    rw [hcfg, h.chanLength]
    omega

/-- A chunk that is passed leaves the source at what follows it. -/
theorem Codec.Passed.source {t : State} {p rest : List Byte} (h : c.Passed s t p ts)
    (hsrc : s.src.drop s.srcOff = c.chunkBytes s.cfg p ++ rest) : t.src.drop t.srcOff = rest := by
  have hsame : t.src = s.src := by rw [h.frame]
  rw [hsame, h.srcOff, Nat.add_assoc, ← c.chunkBytes_length s.cfg p, ← List.drop_drop, hsrc, List.drop_left]

/-- The chunks after a passed one close the stream for it too: the payloads decode one after the other. -/
theorem Codec.Lawful.closed_cons (hc : c.Lawful) {t u : State} {p : List Byte} {chunks : List (List Byte)}
    (h : c.Passed s t p ts) (hu : c.Closed t u chunks) : c.Closed s u (p :: chunks) where
  state := hu.state
  closeCause := hu.closeCause
  err := by rw [hu.err, h.frame]
  sinkEnd := hu.sinkEnd
  chunkCount := by rw [hu.chunkCount, h.chunkCount, List.length_cons]; omega
  chan := by
    have hcfg : t.cfg = s.cfg := by rw [h.frame]
    rw [hu.chan, h.chan, h.decoder, hcfg, List.flatten_cons, hc.decode_append, List.append_assoc]

/-- A container of well-formed chunks closes the stream normally with the decode of the payloads joined. -/
theorem Codec.Lawful.run_container (hc : c.Lawful) (chunks : List (List Byte))
    (hs : c.Ready s (c.size chunks.flatten)) (hsize : ∀ p ∈ chunks, p.length ≤ 65535 ∧ c.size p ≤ 65535)
    (hsrc : s.src.drop s.srcOff = (chunks.map (c.chunkBytes s.cfg)).flatten)
    (ht : s.turns = List.replicate ((chunks.map c.chunkTurns).sum + 1) (.worker quietDraw)) :
    ∃ t, Host.Core.run Sys2Proof.core ((chunks.map c.chunkTurns).sum + 1) s = .next t ∧ c.Closed s t chunks := by
  induction chunks generalizing s with
  | nil =>
    refine ⟨_, run_succ 0 (step_eos hs.worker hsrc ht), rfl, rfl, rfl, rfl, rfl, ?_⟩
    rw [List.flatten_nil, hc.decode_nil, List.append_nil]
    rfl
  | cons p chunks ih =>
    obtain ⟨hp, hd⟩ := hsize p List.mem_cons_self
    rw [List.flatten_cons, hc.size_append] at hs
    rw [List.map_cons, List.flatten_cons] at hsrc
    rw [List.map_cons, List.sum_cons, Nat.add_assoc] at ht ⊢
    rw [List.replicate_add] at ht
    have hready : c.Ready s (c.size p) := { hs with room := by have := hs.room; omega }
    obtain ⟨t, hrun, hpassed⟩ := hc.run_chunk hready (enc := .ofNat 16 p.length) (dec := .ofNat 16 (c.size p))
      (by simp; omega) (by simp; omega) hsrc ht
    have hcfg : t.cfg = s.cfg := by rw [hpassed.frame]
    obtain ⟨u, hrest, hclosed⟩ := ih (hpassed.ready hs) (fun q hq => hsize q (List.mem_cons_of_mem _ hq))
      (by rw [hcfg]; exact hpassed.source hsrc) hpassed.turns
    exact ⟨u, (run_add _ _ _ _ hrun).trans hrest, hc.closed_cons hpassed hclosed⟩

end Sys2Proof.Machine

namespace Sys2Proof.Proofs

open Sys2Proof Sys2Proof.Machine

/-- Settles O56: the loop's chunk for IMA4. -/
theorem imaChunkPassesThroughTheLoop : Obligations.ImaChunkPassesThroughTheLoop := by
  unfold Obligations.ImaChunkPassesThroughTheLoop
  rintro s enc dec p rest ts k hw hcaller hctype hp hd hsrc hroom rfl ht
  have hsize : dec.toNat = imaCodec.size p := by rw [hd, ← hp]; rfl
  rw [hsize] at hroom ht ⊢
  have hready : imaCodec.Ready s (imaCodec.size p) := ⟨hw, hcaller, hctype, hroom⟩
  obtain ⟨t, hrun, h⟩ := imaCodec_lawful.run_chunk hready hp hsize hsrc ht
  exact ⟨t, hrun, (h.ready (n := 0) hready).worker, h.turns, hp ▸ h.srcOff, h.chunkCount, h.chan, h.decoder⟩

/-- Settles O58: the loop's chunk for WS8. -/
theorem ws8ChunkPassesThroughTheLoop : Obligations.Ws8ChunkPassesThroughTheLoop := by
  unfold Obligations.Ws8ChunkPassesThroughTheLoop
  rintro s enc dec p rest ts k hw hcaller hctype hp hd hsrc hroom rfl ht
  rw [hd] at hroom ht ⊢
  have hready : ws8Codec.Ready s (ws8Codec.size p) := ⟨hw, hcaller, hctype, hroom⟩
  obtain ⟨t, hrun, h⟩ := ws8Codec_lawful.run_chunk hready hp hd hsrc ht
  exact ⟨t, hrun, (h.ready (n := 0) hready).worker, h.turns, hp ▸ h.srcOff, h.chunkCount, h.chan, h.decoder⟩

/-- Settles O57: the loop's container for IMA4, whose chunks of at most 16383 bytes have sizes of 16 bits. -/
theorem imaContainerDecodesToItsBytes : Obligations.ImaContainerDecodesToItsBytes := by
  unfold Obligations.ImaContainerDecodesToItsBytes
  rintro s chunks k hw hcaller hctype hlen hsrc hroom rfl ht
  have hsize (p : List Byte) (hp : p ∈ chunks) : p.length ≤ 65535 ∧ imaCodec.size p ≤ 65535 := by
    have := hlen p hp
    simp only [imaCodec]
    omega
  obtain ⟨t, hrun, h⟩ :=
    imaCodec_lawful.run_container chunks ⟨hw, hcaller, hctype, hroom⟩ hsize hsrc ht
  exact ⟨t, hrun, h.state, h.closeCause, h.err, h.sinkEnd, h.chunkCount, h.chan⟩

/-- Settles O59: the loop's container for WS8. -/
theorem ws8ContainerDecodesToItsBytes : Obligations.Ws8ContainerDecodesToItsBytes := by
  unfold Obligations.Ws8ContainerDecodesToItsBytes
  rintro s chunks k hw hcaller hctype hsize hsrc hroom rfl ht
  obtain ⟨t, hrun, h⟩ :=
    ws8Codec_lawful.run_container chunks ⟨hw, hcaller, hctype, hroom⟩ hsize hsrc ht
  exact ⟨t, hrun, h.state, h.closeCause, h.err, h.sinkEnd, h.chunkCount, h.chan⟩

end Sys2Proof.Proofs
end

section
/-! SUPPORT. Proofs of the statements about the block's reset and about fairness: how long a schedule keeps an agent
from its next move, and what a move of the caller takes (70_reset_and_hazards.md R230, R236). -/

namespace Sys2Proof.Machine

variable {s t : State} {a : Agent} {r : Nat → State}

/-! ## Whose move is next -/

/-- The step that the machine takes next is a move of the agent `a`. -/
def MovesNext (a : Agent) (s : State) : Prop := ∃ d t, takeTurn s = (a.turn d, t)

/-- Within its stretch the agent moves, and the stretch gets shorter (log 2). -/
theorem takeTurn_stretch {k : Nat} (ht : s.turns = []) (hl : s.freeLeft = k + 1) :
    ∃ d t, takeTurn s = (s.freeMover.turn d, t) ∧ t.turns = [] ∧ t.freeMover = s.freeMover ∧ t.freeLeft = k :=
  ⟨_, _, takeTurn_within_stretch ht hl, rfl, rfl, rfl⟩

/-- At the end of a stretch the other agent moves, and its stretch begins (log 2). -/
theorem takeTurn_next_stretch (ht : s.turns = []) (hl : s.freeLeft = 0) :
    ∃ d t, takeTurn s = (s.freeMover.other.turn d, t) ∧ t.turns = [] ∧ t.freeMover = s.freeMover.other :=
  ⟨_, _, takeTurn_after_stretch ht hl, rfl, rfl⟩

theorem takeTurn_turns (s : State) : (takeTurn s).2.turns = s.turns.tail := by
  rcases ht : s.turns with _ | ⟨u, ts⟩
  · rcases hl : s.freeLeft with _ | k
    · obtain ⟨d, t, hturn, hturns, -⟩ := takeTurn_next_stretch ht hl
      rw [hturn, hturns, List.tail_nil]
    · obtain ⟨d, t, hturn, hturns, -⟩ := takeTurn_stretch ht hl
      rw [hturn, hturns, List.tail_nil]
  · rw [takeTurn, ht, List.tail_cons]

theorem Agent.eq_or_eq_other (a b : Agent) : a = b ∨ a = b.other := by
  cases a <;> cases b <;> simp [Agent.other]

/-! ## Every agent moves again and again -/

/-- The listed turns come to an end. -/
theorem InfiniteRun.exhausts_turns (hr : InfiniteRun r) (n : Nat) : ∃ m, n ≤ m ∧ (r m).turns = [] := by
  have hdrop (k : Nat) : (r (n + k)).turns = (r n).turns.drop k := by
    induction k with
    | zero => rfl
    | succ k ih => rw [← Nat.add_assoc, (step_schedule (hr _)).1, takeTurn_turns, ih, List.tail_drop]
  exact ⟨_, Nat.le_add_right n _, (hdrop _).trans List.drop_length⟩

/-- A stretch comes to an end, and until then it is the same agent's. -/
theorem InfiniteRun.exhausts_stretch (hr : InfiniteRun r) {n : Nat} (ht : (r n).turns = []) :
    ∃ m, n ≤ m ∧ (r m).turns = [] ∧ (r m).freeLeft = 0 ∧ (r m).freeMover = (r n).freeMover := by
  induction hl : (r n).freeLeft generalizing n with
  | zero => exact ⟨n, le_rfl, ht, hl, rfl⟩
  | succ k ih =>
    obtain ⟨d, t, hturn, hturns, hmover, hleft⟩ := takeTurn_stretch ht hl
    obtain ⟨hts, hmv, hlf⟩ := step_schedule (hr n)
    rw [hturn] at hts hmv hlf
    obtain ⟨m, hm, hend⟩ := ih (hts.trans hturns) (hlf.trans hleft)
    rw [hmv, hmover] at hend
    exact ⟨m, by omega, hend⟩

/-- R236: at the end of a stretch the other agent moves; so of two ends that follow each other one is the agent's. -/
theorem InfiniteRun.moves_again (hr : InfiniteRun r) (a : Agent) (n : Nat) : ∃ m, n ≤ m ∧ MovesNext a (r m) := by
  obtain ⟨n₁, hn₁, ht₁⟩ := hr.exhausts_turns n
  obtain ⟨m, hm, ht, hl, -⟩ := hr.exhausts_stretch ht₁
  obtain ⟨d, t, hturn, hturns, hmover⟩ := takeTurn_next_stretch ht hl
  rcases a.eq_or_eq_other (r m).freeMover.other with rfl | ha
  · exact ⟨m, by omega, d, t, hturn⟩
  · obtain ⟨hts, hmv, -⟩ := step_schedule (hr m)
    rw [hturn] at hts hmv
    obtain ⟨m', hm', ht', hl', hmv'⟩ := hr.exhausts_stretch (hts.trans hturns)
    obtain ⟨d', t', hturn', -⟩ := takeTurn_next_stretch ht' hl'
    rw [hmv', hmv, hmover, ← ha] at hturn'
    exact ⟨m', by omega, d', t', hturn'⟩

/-! ## What a move of the caller takes -/

/-- The caller has nothing to do, tries its suspended `READ` again, or issues its first command left. -/
theorem callerFetch_cases (s : State) :
    (s.callerWait = none ∧ callerFetch s = none) ∨
    (∃ n, s.callerWait = some n ∧ callerFetch s = some (.read n, s)) ∨
    ∃ c cs, s.cmds = c :: cs ∧ callerFetch s = some (c, { s with cmds := cs }) := by
  by_cases hw : s.callerWait = none
  · rw [callerFetch_free hw, nextCommand]
    rcases s.cmds with _ | ⟨c, cs⟩
    · exact .inl ⟨hw, rfl⟩
    · exact .inr (.inr ⟨c, cs, rfl, rfl⟩)
  · obtain ⟨n, hn⟩ := Option.ne_none_iff_exists'.1 hw
    rw [callerFetch_suspended hn]
    rcases suspendedFetch_cases n s with ⟨c, cs, hc, -, e⟩ | e
    · exact .inr (.inr ⟨c, cs, hc, e⟩)
    · exact .inr (.inl ⟨n, hn, e⟩)

/-- The caller's move gives no command back. -/
theorem callerMove_cmds_le (h : callerMove s = .next t) : t.cmds.length ≤ s.cmds.length := by
  rcases callerFetch_cases s with ⟨-, e⟩ | ⟨n, -, e⟩ | ⟨c, cs, hc, e⟩
  · rw [callerMove, e] at h
    cases h
    exact le_rfl
  · rw [callerMove_of_fetch e] at h
    obtain ⟨-, -, -, hcmds⟩ := (issue_effect h).schedule
    rw [hcmds]
  · rw [callerMove_of_fetch e] at h
    obtain ⟨-, -, -, hcmds⟩ := (issue_effect h).schedule
    simp [hcmds, hc]

/-- No step adds a command. -/
theorem step_cmds_le (h : step s = .next t) : t.cmds.length ≤ s.cmds.length := by
  rcases step_cases h with ⟨cfg, src, ts, -, rfl⟩ | ⟨d, ts, n, m, l, -, h | h⟩
  · exact le_rfl
  · obtain ⟨-, -, -, hcmds⟩ := (workerMove_effect h).schedule.1
    rw [hcmds]
  · exact (callerMove_cmds_le h :)

/-- A `READ` that would not block returns, and the caller is free again (R175). -/
theorem readAdmitted_returns {n : Nat} (h : ¬ readBlocked s) : (readAdmitted n s).callerWait = none := by
  rw [readAdmitted]
  split_ifs with hf ha hb hb he
  any_goals rfl
  · exact absurd ⟨by simpa using hf, by cases hs : s.sinkEnd <;> simp_all, by simpa using hb⟩ h

theorem execRead_returns {n : Nat} (hb : ¬ readBlocked s) (h : execRead n s = .next t) : t.callerWait = none := by
  rw [execRead] at h
  split_ifs at h
  cases h
  exact readAdmitted_returns hb

/-- Only the caller's own move suspends it. -/
theorem step_keeps_free (h : step s = .next t) (hw : s.callerWait = none) (hm : ¬ MovesNext .caller s) :
    t.callerWait = none := by
  rcases takeTurn_cases s with ⟨cfg, src, ts, ht, -⟩ | ⟨a, d, ts, n, m, l, -, e⟩
  · rw [step_reset ht] at h
    cases h
    rfl
  · cases a with
    | worker =>
      rw [step_of_worker e] at h
      exact (workerMove_effect h).schedule.2.trans hw
    | caller => exact absurd ⟨d, _, e⟩ hm

/-- Taking a turn of the caller leaves its commands and its suspended `READ`. -/
theorem MovesNext.caller_turn (h : MovesNext .caller s) :
    ∃ d u, takeTurn s = (.caller d, u) ∧ u.cmds = s.cmds ∧ u.callerWait = s.callerWait := by
  obtain ⟨d, u, h⟩ := h
  rcases takeTurn_cases s with ⟨cfg, src, ts, -, e⟩ | ⟨a, d', ts, n, m, l, -, e⟩
  · cases h.symm.trans e
  · cases a with
    | worker => cases h.symm.trans e
    | caller => exact ⟨d', _, e, rfl, rfl⟩

/-- A free caller with a command left issues it. -/
theorem command_taken_of_free (hm : MovesNext .caller s) (he : AgentStep.command.enabled s)
    (hw : s.callerWait = none) : AgentStep.command.taken s := by
  obtain ⟨d, u, e, hcmds, hwait⟩ := hm.caller_turn
  obtain ⟨c, cs, hc, -⟩ := he
  exact ⟨d, u, c, cs, e, hc, callerFetch_command (hcmds.trans hc) (.inl (hwait.trans hw))⟩

/-- A command that may come beside a suspended `READ` is issued, or the `READ` returns (log 30). -/
theorem command_taken_or_freed (hm : MovesNext .caller s) (he : AgentStep.command.enabled s)
    (h : step s = .next t) : AgentStep.command.taken s ∨ t.callerWait = none := by
  by_cases hw : s.callerWait = none
  · exact .inl (command_taken_of_free hm he hw)
  · obtain ⟨d, u, e, hcmds, hwait⟩ := hm.caller_turn
    obtain ⟨c, cs, hc, hfree⟩ := he
    obtain ⟨n, hn⟩ := Option.ne_none_iff_exists'.1 hw
    by_cases hgo : readBlocked u ∨ d.commandFirst = true
    · exact .inl ⟨d, u, c, cs, e, hc,
        callerFetch_command (hcmds.trans hc) (.inr ⟨⟨n, hwait.trans hn⟩, hfree.resolve_left hw, hgo⟩)⟩
    · obtain ⟨hb, hd⟩ := not_or.1 hgo
      have hf : callerFetch { u with draw := d } = some (.read n, { u with draw := d }) :=
        callerFetch_read (hwait.trans hn) fun _ _ _ => .inr ⟨hb, Bool.eq_false_iff.2 hd⟩
      rw [step_of_caller e, callerMove_of_fetch hf] at h
      exact .inr (execRead_returns (by exact hb) h)

/-- A caller that is suspended tries its `READ` again, or has one command less to issue. -/
theorem read_taken_or_cmds_lt (hm : MovesNext .caller s) (he : AgentStep.read.enabled s) (h : step s = .next t) :
    AgentStep.read.taken s ∨ t.cmds.length < s.cmds.length := by
  obtain ⟨d, u, e, hcmds, hwait⟩ := hm.caller_turn
  obtain ⟨n, hn, -⟩ := he
  rcases callerFetch_cases { u with draw := d } with ⟨hw, -⟩ | ⟨k, hk, hf⟩ | ⟨c, cs, hc, hf⟩
  · cases hn.symm.trans (hwait.symm.trans hw)
  · exact .inl ⟨d, u, k, e, hwait.symm.trans hk, hf⟩
  · rw [step_of_caller e, callerMove_of_fetch hf] at h
    obtain ⟨-, -, -, hleft⟩ := (issue_effect h).schedule
    have hcons : s.cmds = c :: cs := hcmds.symm.trans hc
    rw [hleft, hcons]
    exact .inr (Nat.lt_succ_self _)

/-! ## Weak fairness -/

/-- A free caller is still free at its next move. -/
theorem InfiniteRun.moves_free (hr : InfiniteRun r) {n : Nat} (hw : (r n).callerWait = none) :
    ∃ m, n ≤ m ∧ MovesNext .caller (r m) ∧ (r m).callerWait = none := by
  obtain ⟨m, hm, hmove⟩ := hr.moves_again .caller n
  induction hk : m - n generalizing n with
  | zero => exact ⟨n, le_rfl, by rwa [show n = m by omega], hw⟩
  | succ k ih =>
    by_cases hn : MovesNext .caller (r n)
    · exact ⟨n, le_rfl, hn, hw⟩
    · obtain ⟨m', hm', h⟩ := ih (step_keeps_free (hr n) hw hn) (by omega) (by omega)
      exact ⟨m', by omega, h⟩

theorem InfiniteRun.worker_taken (hr : InfiniteRun r) {n : Nat}
    (he : ∀ m, n ≤ m → AgentStep.worker.enabled (r m)) : ∃ m, n ≤ m ∧ AgentStep.worker.taken (r m) := by
  obtain ⟨m, hm, hmove⟩ := hr.moves_again .worker n
  exact ⟨m, hm, he m hm, hmove⟩

/-- The command goes first at the caller's next move, or at the one after the suspended `READ` has returned. -/
theorem InfiniteRun.command_taken (hr : InfiniteRun r) {n : Nat}
    (he : ∀ m, n ≤ m → AgentStep.command.enabled (r m)) : ∃ m, n ≤ m ∧ AgentStep.command.taken (r m) := by
  obtain ⟨m, hm, hmove⟩ := hr.moves_again .caller n
  rcases command_taken_or_freed hmove (he m hm) (hr m) with h | hw
  · exact ⟨m, hm, h⟩
  · obtain ⟨m', hm', hmove', hw'⟩ := hr.moves_free hw
    exact ⟨m', by omega, command_taken_of_free hmove' (he m' (by omega)) hw'⟩

theorem InfiniteRun.cmds_le (hr : InfiniteRun r) {n m : Nat} (h : n ≤ m) :
    (r m).cmds.length ≤ (r n).cmds.length :=
  antitone_nat_of_succ_le (f := fun n => (r n).cmds.length) (fun n => step_cmds_le (hr n)) h

/-- Only as often as there are commands left can one go before the `READ`. -/
theorem InfiniteRun.read_taken (hr : InfiniteRun r) {n : Nat}
    (he : ∀ m, n ≤ m → AgentStep.read.enabled (r m)) : ∃ m, n ≤ m ∧ AgentStep.read.taken (r m) := by
  induction hk : (r n).cmds.length using Nat.strong_induction_on generalizing n with
  | _ k ih =>
    obtain ⟨m, hm, hmove⟩ := hr.moves_again .caller n
    rcases read_taken_or_cmds_lt hmove (he m hm) (hr m) with h | hlt
    · exact ⟨m, hm, h⟩
    · have hle := hr.cmds_le hm
      obtain ⟨m', hm', h⟩ := ih (r (m + 1)).cmds.length (by omega) (fun j hj => he j (by omega)) rfl
      exact ⟨m', by omega, h⟩

end Sys2Proof.Machine

namespace Sys2Proof.Proofs

open Sys2Proof Sys2Proof.Machine

/-- Settles O15: the schedule gives each agent another move, and a step that stays enabled is taken at one of them. -/
theorem everyRunIsWeaklyFair : Obligations.EveryRunIsWeaklyFair := by
  unfold Obligations.EveryRunIsWeaklyFair
  intro r hr
  constructor
  · intro k n he
    cases k with
    | worker => exact hr.worker_taken he
    | command => exact hr.command_taken he
    | read => exact hr.read_taken he
  · intro a n
    obtain ⟨m, hm, d, t, h⟩ := hr.moves_again a n
    exact ⟨m, d, t, hm, h⟩

/-- Settles O9: the step is `blockReset`, which is `State.reset` but for what the statement names. -/
theorem blockResetRestoresEveryRegister : Obligations.BlockResetRestoresEveryRegister := by
  unfold Obligations.BlockResetRestoresEveryRegister
  intro s cfg src ts ht
  exact ⟨_, step_reset ht, rfl⟩

end Sys2Proof.Proofs
end
